-- ==== Sys2Proof/Word.lean ====
section
/-! DEFINITION. Bytes and 32-bit words, the two widths the spec uses (R9 of 00_scope.md, R92 of 30_encoding.md). -/

namespace Sys2Proof

/-- A byte: 8 bits, bit 0 the least significant (R9). -/
abbrev Byte := BitVec 8

/-- A request field or a geometry register: 32 bits unsigned (R21, R92; D2). -/
abbrev Word := BitVec 32

end Sys2Proof
end

