-- ==== Sys2Proof/Config.lean ====
section
/-! DEFINITION. The implementation parameters of the sequencer (00_scope.md R5 to R8) and the free values: what the
environment answers (R62) and the parameters that no source gives a value (D9, D10, D12). -/

namespace Sys2Proof

/-- The three declared capacities (R1, R94). -/
inductive Capacity where
  | mb64
  | mb128
  | mb256
  deriving DecidableEq, Repr

/-- The parameters of R6. A field with a default is 'default from source'; a field without one is OPEN and has to be
given (R5, D11). Arithmetic on them is exact (R9), so the numbers are naturals. -/
structure Params where
  /-- `PAGE_SIZE`: bytes per programmable page. -/
  pageSize : Nat := 256
  /-- `ADDR_WIDTH_CFG`: the address width CONFIG stores. -/
  addrWidthCfg : Nat := 24
  /-- `PAGE_COUNT[64Mb]`. -/
  pageCount64 : Nat := 32768
  /-- `PAGE_COUNT[128Mb]`. -/
  pageCount128 : Nat := 65536
  /-- `PAGE_COUNT[256Mb]`. -/
  pageCount256 : Nat := 131072
  /-- `SECTOR_SIZE`: bytes per erasable sector. -/
  sectorSize : Nat := 4096
  /-- `SECTOR_COUNT`: OPEN (D12). -/
  sectorCount : Nat
  /-- `CMD_WRITE_ENABLE`. -/
  cmdWriteEnable : Byte := 0x06
  /-- `CMD_WRITE_DISABLE`. -/
  cmdWriteDisable : Byte := 0x04
  /-- `CMD_READ_STATUS_1`. -/
  cmdReadStatus1 : Byte := 0x05
  /-- `CMD_PAGE_PROGRAM`. -/
  cmdPageProgram : Byte := 0x02
  /-- `CMD_SECTOR_ERASE_4KB`. -/
  cmdSectorErase : Byte := 0x20
  /-- `CMD_DATA_READ`. -/
  cmdDataRead : Byte := 0x03
  /-- `CMD_JEDEC_ID`. -/
  cmdJedecId : Byte := 0x9F
  /-- `ST_BUSY`: the BUSY bit of the status byte. -/
  stBusy : Byte := 0x01
  /-- `ST_WRITE_ENABLED`: the WRITE_ENABLED bit of the status byte. -/
  stWriteEnabled : Byte := 0x02
  /-- `T_LATCH`: delay between write-enable and page-program in WRITE_PAGE. -/
  tLatch : Nat := 1
  /-- `T_PROG`: delay after the page-program frame; OPEN (D10). -/
  tProg : Nat
  /-- `T_POLL`: delay between two status polls. -/
  tPoll : Nat := 1
  /-- `T_ERASE_PRE`: poll budget of the wait before the erase command (C1). -/
  tErasePre : Nat := 2000
  /-- `T_ERASE_POST`: poll budget of the wait after the erase command (C1). -/
  tErasePost : Nat := 500
  /-- `TIME_UNIT`: the duration of one time-unit; OPEN, read by no rule (D9, U1). -/
  timeUnit : Nat
  /-- `ID_READ_LEN`: bytes read after the JEDEC-ID command. -/
  idReadLen : Nat := 4
  deriving DecidableEq, Repr

/-- `PAGE_COUNT[c]` (R6). -/
def Params.pageCount (p : Params) : Capacity → Nat
  | .mb64 => p.pageCount64
  | .mb128 => p.pageCount128
  | .mb256 => p.pageCount256

/-- The seven command bytes, in the order of R101. -/
def Params.commands (p : Params) : List Byte :=
  [p.cmdWriteEnable, p.cmdWriteDisable, p.cmdReadStatus1, p.cmdPageProgram, p.cmdSectorErase, p.cmdDataRead,
    p.cmdJedecId]

/-- A byte with exactly one bit set (R8: the two masks are single bits). -/
def singleBit (m : Byte) : Bool :=
  [0x01#8, 0x02#8, 0x04#8, 0x08#8, 0x10#8, 0x20#8, 0x40#8, 0x80#8].contains m

/-- The constraints of R8, under which the spec says its rules are well defined. (That commands and masks fit in 8 bits
is their type.) -/
abbrev Params.Ok (p : Params) : Prop :=
  0 < p.pageSize ∧ (0 < p.pageCount64 ∧ 0 < p.pageCount128 ∧ 0 < p.pageCount256) ∧
  (p.pageCount64 * p.pageSize < 2 ^ 32 ∧ p.pageCount128 * p.pageSize < 2 ^ 32 ∧
    p.pageCount256 * p.pageSize < 2 ^ 32) ∧
  (0 < p.sectorSize ∧ p.sectorCount * p.sectorSize ≤ 2 ^ 32) ∧
  (singleBit p.stBusy = true ∧ singleBit p.stWriteEnabled = true ∧ p.stBusy ≠ p.stWriteEnabled) ∧
  (p.tLatch < 2 ^ 32 ∧ p.tProg < 2 ^ 32 ∧ p.tPoll < 2 ^ 32 ∧ p.tErasePre < 2 ^ 32 ∧ p.tErasePost < 2 ^ 32)

/-- What the rules use beyond R8: the seven command bytes differ (R101), the configured address width is one of the two
that have a framing (R22), at least the three identity bytes that are kept are read (R110), and the two poll budgets are
positive (U16). DEDUCED (log 10, log 19). -/
abbrev Params.Coherent (p : Params) : Prop :=
  p.commands.Nodup ∧ (p.addrWidthCfg = 24 ∨ p.addrWidthCfg = 16) ∧ 3 ≤ p.idReadLen ∧
  (0 < p.tErasePre ∧ 0 < p.tErasePost)

namespace Config

/-- The free answer bytes of the transport, by a counter: what the oracle of R62 answers once the script `rxIn` of the
state is used up. No body: any byte (D33; log 5). -/
opaque rxByte : Nat → Byte

/-- The OPEN parameter `SECTOR_COUNT` of the machine at reset, within R8's bound `SECTOR_COUNT * SECTOR_SIZE ≤ 2^32` for
the default `SECTOR_SIZE` (D12; log 6). -/
opaque sectorCount : Fin 1048577

/-- The OPEN parameter `T_PROG` of the machine at reset, below `2^32` (D10, R8; log 6). -/
opaque tProg : Word

/-- The OPEN parameter `TIME_UNIT` of the machine at reset (D9; log 6). -/
opaque timeUnit : Nat

/-- The parameters of the machine at reset: every default of R6, and the three OPEN ones free. -/
def params : Params :=
  { sectorCount := sectorCount.val, tProg := tProg.toNat, timeUnit := timeUnit }

end Config

end Sys2Proof
end

