-- ==== Sys2Proof/Machine/Flags.lean ====
section
/-! DEFINITION. Every flag and answer decoding: the status mask with its two flags BUSY and WRITE_ENABLED (R32, R109) and the packing
of the identity (R57, R110). -/

namespace Sys2Proof.Machine

/-- The masked status byte: `r & (ST_BUSY | ST_WRITE_ENABLED)`; all other bits are discarded (R109). -/
def statusMask (p : Params) (raw : Byte) : Byte :=
  raw &&& (p.stBusy ||| p.stWriteEnabled)

/-- BUSY of a status byte (R32). -/
def isBusy (p : Params) (st : Byte) : Bool :=
  st &&& p.stBusy != 0#8

/-- WRITE_ENABLED of a status byte (R32). -/
def isWriteEnabled (p : Params) (st : Byte) : Bool :=
  st &&& p.stWriteEnabled != 0#8

/-- `(byte0 << 16) | (byte1 << 8) | byte2` (R110), bits 31:24 zero (R93). -/
def packIdentity (b0 b1 b2 : Byte) : Word :=
  (b0.zeroExtend 32 <<< 16) ||| (b1.zeroExtend 32 <<< 8) ||| b2.zeroExtend 32

end Sys2Proof.Machine
end

