-- ==== Sys2Proof/Machine/Operands.lean ====
section
/-! DEFINITION. Every operand form: address framing (R104, R105), low-byte forcing (R106), page offset and room (R51),
sector address (R107), the capacity and slot encodings of CONFIG (R94), the checks of an operand. All arithmetic is exact (R9). -/

namespace Sys2Proof.Machine

/-- Bits `8k+7 .. 8k` of an address: one address byte (R104). -/
def addressByte (k a : Nat) : Byte :=
  BitVec.ofNat 8 (a >>> (8 * k))

/-- `TXADDR_24(a)`: upper, mid, lower (R104). -/
def addressBytes24 (a : Nat) : List Byte :=
  [addressByte 2 a, addressByte 1 a, addressByte 0 a]

/-- `TXADDR_16(a)`: upper, lower (R104). -/
def addressBytes16 (a : Nat) : List Byte :=
  [addressByte 1 a, addressByte 0 a]

/-- `TXADDR_w(a)` (R104); no other width has a framing (R22). -/
def addressBytes (w : Word) (a : Nat) : Option (List Byte) :=
  if w = 24#32 then some (addressBytes24 a)
  else if w = 16#32 then some (addressBytes16 a)
  else none

/-- `a mod g.page_size` (R51). -/
def pageOffset (pageSize a : Nat) : Nat :=
  a % pageSize

/-- The room left in the page: `g.page_size - (a mod g.page_size)` (R51). -/
def pageRoom (pageSize a : Nat) : Nat :=
  pageSize - pageOffset pageSize a

/-- The address WRITE_PAGE frames: the low BYTE (not the page offset) is forced to 0 for a full page (R106, R175). -/
def framedAddress (pageSize address length : Nat) : Nat :=
  if length = pageSize then address - address % 256 else address

/-- The base address of a sector (R52, R107), exact. -/
def sectorAddress (p : Params) (sector : Nat) : Nat :=
  sector * p.sectorSize

/-- `capacity` as CONFIG reads it: 0, 1, 2, and nothing else (R94). -/
def capacityOf (code : Word) : Option Capacity :=
  if code = 0#32 then some .mb64
  else if code = 1#32 then some .mb128
  else if code = 2#32 then some .mb256
  else none

/-- All six transport operations are supplied: bits 0 to 5 are `chip_select`, `spi_read`, `spi_write`, `spi_write_byte`,
`spi_read_register`, `delay` (R94, R131). -/
def allSlots : BitVec 6 :=
  0b111111#6

/-- A write request supplies at least `length` bytes (R53, D21). -/
def enoughData (wdata : List Byte) (length : Word) : Bool :=
  decide (length.toNat ≤ wdata.length)

/-- The two widths that have a framing (R22, R104). -/
def legalWidth (w : Word) : Bool :=
  w == 24#32 || w == 16#32

/-- The address fits the `w` bits that are sent (R105). -/
def addressFits (w : Word) (a : Word) : Bool :=
  decide (a.toNat < 2 ^ w.toNat)

end Sys2Proof.Machine
end

