-- ==== Sys2Proof/Syntax.lean ====
section
/-! DEFINITION. The instructions: the eight host operations of R91 and the seven wire commands of R101 (one constructor
for each row of spec/opcode_table.json), and the two encoded forms they come in: the request record of R92 and the wire
frame of R100 to R102. -/

namespace Sys2Proof

/-- One row of spec/opcode_table.json each. -/
inductive Instr where
  /-- CONFIG, op 0 (R131): `arg0` and `arg1[5:0]`. -/
  | config (capacity : Word) (slots : BitVec 6)
  /-- READ_STATUS, op 1 (R141). -/
  | readStatus
  /-- READ_ID, op 2 (R145). -/
  | readId
  /-- SET_WREN, op 3 (R149): `arg0[0]`. -/
  | setWren (enable : Bool)
  /-- READ, op 4 (R161): `arg0`, `arg1`. -/
  | read (address length : Word)
  /-- WRITE_PAGE, op 5 (R171): `arg0`, `wdata`, `arg1`, `flag`. -/
  | writePage (address : Word) (wdata : List Byte) (length : Word) (fastQuit : Bool)
  /-- WRITE, op 6 (R186): `arg0`, `wdata`, `arg1`. -/
  | write (address : Word) (wdata : List Byte) (length : Word)
  /-- ERASE_SECTOR, op 7 (R216): `arg0`. -/
  | eraseSector (sector : Word)
  /-- WRITE_ENABLE, wire command 0x06 (R111). -/
  | writeEnable
  /-- WRITE_DISABLE, wire command 0x04 (R112). -/
  | writeDisable
  /-- READ_STATUS_1, wire command 0x05 (R113). -/
  | readStatus1
  /-- PAGE_PROGRAM, wire command 0x02 (R114): the framed address and the data. -/
  | pageProgram (address : Word) (data : List Byte)
  /-- SECTOR_ERASE_4KB, wire command 0x20 (R115): the sector's base address. -/
  | sectorErase4kb (address : Word)
  /-- DATA_READ, wire command 0x03 (R116): the address and the number of bytes to read. -/
  | dataRead (address count : Word)
  /-- JEDEC_ID, wire command 0x9F (R117). -/
  | jedecId
  deriving DecidableEq, Repr

/-- A host request `HOSTREQ` (R92). -/
structure HostReq where
  op : BitVec 4
  arg0 : Word
  arg1 : Word
  flag : Bool
  wdata : List Byte
  deriving DecidableEq, Repr

/-- A wire frame between `CS(1)` and `CS(0)` (R100, R102): the bytes sent, and the number of bytes read after them where
the frame ends in an `RX` (`some 0` is an `RX(0)`, which R164 distinguishes from none). -/
structure WireFrame where
  sent : List Byte
  read : Option Nat
  deriving DecidableEq, Repr

/-- The two encoded forms: the opcode table's spaces `host` and `wire`. -/
inductive Encoded where
  | request (r : HostReq)
  | frame (f : WireFrame)
  deriving DecidableEq, Repr

/-- Why an encoded form names no instruction. -/
inductive DecodeError where
  /-- `op` 8 to 15 names no operation (R95). -/
  | reservedOp (op : BitVec 4)
  /-- A frame without a command byte (R100: the command byte is always first). -/
  | emptyFrame
  /-- A command byte outside the seven (R118). -/
  | unknownCommand (cmd : Byte)
  /-- A known command whose address, data or read part does not have the layout of R102. -/
  | malformedFrame (cmd : Byte)
  /-- The address part cannot be told from the data: `g.address_width` is neither 16 nor 24 (R103, R22). -/
  | addressWidth
  deriving DecidableEq, Repr

/-- The host operations, the rows with `"space": "host"`. -/
def Instr.isHost : Instr → Bool
  | .config _ _ => true
  | .readStatus => true
  | .readId => true
  | .setWren _ => true
  | .read _ _ => true
  | .writePage _ _ _ _ => true
  | .write _ _ _ => true
  | .eraseSector _ => true
  | .writeEnable => false
  | .writeDisable => false
  | .readStatus1 => false
  | .pageProgram _ _ => false
  | .sectorErase4kb _ => false
  | .dataRead _ _ => false
  | .jedecId => false

/-- CONFIG, the one operation that has a meaning while unconfigured (R130). -/
def Instr.isConfig : Instr → Bool
  | .config _ _ => true
  | .readStatus => false
  | .readId => false
  | .setWren _ => false
  | .read _ _ => false
  | .writePage _ _ _ _ => false
  | .write _ _ _ => false
  | .eraseSector _ => false
  | .writeEnable => false
  | .writeDisable => false
  | .readStatus1 => false
  | .pageProgram _ _ => false
  | .sectorErase4kb _ => false
  | .dataRead _ _ => false
  | .jedecId => false

end Sys2Proof
end

