-- ==== Sys2Proof/Machine/State.lean ====
section
/-! DEFINITION. The state of the sequencer (10_state.md R20 to R37): all of it plain data, and its value after reset. -/

namespace Sys2Proof.Machine

/-- Why a step ends in a fault. -/
inductive Fault where
  /-- Raised by every operation but CONFIG, and by every wire frame, while `configured = 0`; the run is never final
  (R238, D5; for wire frames log 7). Safe: it errs toward unprovable. -/
  | notConfigured
  deriving DecidableEq, Repr

/-- Why a step has no meaning. -/
inductive Refusal where
  /-- Raised by exec's arm of an instruction that has no meaning yet. Safe. -/
  | notModelled (mnemonic : String)
  /-- Raised by the fetch when the request or frame encodes no instruction: op 8 to 15 (R95), an unknown or malformed
  frame (R118, R102), a frame whose address width has no framing (R22). Safe. -/
  | undecodable (e : DecodeError)
  /-- Raised by WRITE_PAGE and WRITE on a request whose `wdata` is shorter than its `length` (R53, U13). Safe. -/
  | shortWriteData
  /-- Raised where an address has to be framed and `g.address_width` is neither 16 nor 24 (R22, U14; log 8); no state
  reachable from reset with R8's parameters has such a width. Safe. -/
  | addressWidth
  /-- Raised by WRITE_PAGE and WRITE where `address mod g.page_size` is needed and `g.page_size = 0`, for which
  R9's remainder is not defined (R8; log 9). Safe. -/
  | pageSizeZero
  /-- Raised by READ_ID when fewer than the three bytes it keeps are read, `ID_READ_LEN < 3` (R110; log 10). Safe. -/
  | identityTooShort
  deriving DecidableEq, Repr

/-- A transport event (R60). `rx v` is `RX(n) = v` with `n` the length of `v`; `cs true` asserts (D24). -/
inductive Event where
  | cs (asserted : Bool)
  | tx (b : Byte)
  | rx (answer : List Byte)
  | delay (units : Nat)
  deriving DecidableEq, Repr

/-- A call of the transport (R245), at the grouping of R65. `spi_read_register` is never called and has no event (R64). -/
inductive Call where
  | chipSelect (enable : Bool)
  | spiWriteByte (b : Byte)
  | spiWrite (buffer : List Byte)
  | spiRead (answer : List Byte)
  | delay (units : Nat)
  deriving DecidableEq, Repr

/-- The geometry registers (R21). -/
structure Geometry where
  pageSize : Word
  addressWidth : Word
  pageCount : Word
  totalSize : Word
  deriving DecidableEq, Repr

/-- The phase register (R29). -/
inductive Phase where
  | idle
  | run
  deriving DecidableEq, Repr

/-- The two waits of ERASE_SECTOR (R216 steps 2 and 6). -/
inductive WaitPoint where
  | beforeErase
  | afterErase
  deriving DecidableEq, Repr

/-- The four kinds of failure (R231). -/
inductive Failure where
  | configuration
  | range
  | timeout (wait : WaitPoint)
  | writeLatch
  deriving DecidableEq, Repr

/-- The response `HOSTRSP` (R93). -/
structure Response where
  ret : Word
  rdata : List Byte
  deriving DecidableEq, Repr

/-- The state (R20), with the ghost trace (R35) and ghost cause (R232), the configuration record (R5) and the
environment's inputs as plain data. -/
structure State where
  /-- The parameters (R5, R6): constant during a run. -/
  params : Params
  /-- 1 exactly when a CONFIG has succeeded since reset (R24). -/
  configured : Bool
  /-- The transport operations bound, by the slot bits of R94 (R25; log 15). -/
  binding : BitVec 6
  /-- The geometry registers (R21). -/
  geo : Geometry
  /-- The phase register (R29). -/
  phase : Phase
  /-- The chip-select output as last driven (R31). -/
  cs : Bool
  /-- Ghost: every transport event since reset, oldest first (R35, R60). -/
  trace : List Event
  /-- The response port (R90, R93); none before the first response (log 14). -/
  rsp : Option Response
  /-- Ghost: the failure the last response stands for (R232, D28; log 13). -/
  cause : Option Failure
  /-- The host port: the request presented next and the host's further ones, in order (R90, R264; log 3). -/
  hostPort : List HostReq
  /-- The frames a running operation still has to send when it runs frame by frame, phase RUN (R29, R97; log 4). -/
  wirePort : List WireFrame
  /-- The transport's answers still to come (R62; log 5). -/
  rxIn : List Byte
  /-- The counter of free answer bytes used after `rxIn` ran out (R62; log 5). -/
  rxFree : Nat
  deriving DecidableEq, Repr

/-- The machine right after reset (R37, R260): unconfigured, IDLE, chip-select deasserted, nothing emitted. The geometry
is unspecified there; the model holds zeros, which no operation can read while unconfigured (log 1). -/
def State.reset : State where
  params := Config.params
  configured := false
  binding := 0#6
  geo := { pageSize := 0#32, addressWidth := 0#32, pageCount := 0#32, totalSize := 0#32 }
  phase := .idle
  cs := false
  trace := []
  rsp := none
  cause := none
  hostPort := []
  wirePort := []
  rxIn := []
  rxFree := 0

end Sys2Proof.Machine
end

