-- ==== Sys2Proof/Machine/Ops.lean ====
section
/-! DEFINITION. The shared operations: transport calls and their events (R60, R65), the oracle's answers (R62), frames (R61, R102),
the response and the failure return (R90, R230, R237), the guard of R238, and presenting a request (R30). -/

namespace Sys2Proof.Machine

/-- What an operation ends in. -/
abbrev Result := Host.Outcome State Fault Refusal

/-- The events of a call: `spi_write` is flattened to its bytes (R60, R65). -/
def Call.events : Call → List Event
  | .chipSelect enable => [.cs enable]
  | .spiWriteByte b => [.tx b]
  | .spiWrite buffer => buffer.map .tx
  | .spiRead answer => [.rx answer]
  | .delay units => [.delay units]

/-- The level of chip-select after a call, from the level before it (R31). -/
def Call.level (before : Bool) : Call → Bool
  | .chipSelect enable => enable
  | .spiWriteByte _ => before
  | .spiWrite _ => before
  | .spiRead _ => before
  | .delay _ => before

/-- One transport call: its events are appended to the trace, in order (R60, R66). -/
def State.call (s : State) (c : Call) : State :=
  { s with trace := s.trace ++ c.events, cs := c.level s.cs }

/-- Transport calls in order. -/
def State.calls (s : State) (cs : List Call) : State :=
  cs.foldl State.call s

/-- The next `n` bytes the transport answers: the script first, then free bytes (R62, R63). -/
def State.rxAnswer (s : State) (n : Nat) : List Byte :=
  s.rxIn.take n ++ (List.range (n - s.rxIn.length)).map fun i => Config.rxByte (s.rxFree + i)

/-- The oracle after it has answered `n` bytes. -/
def State.rxConsume (s : State) (n : Nat) : State :=
  { s with rxIn := s.rxIn.drop n, rxFree := s.rxFree + (n - s.rxIn.length) }

/-- The calls that begin a frame: assert chip-select, then command and address bytes one by one (R65, R100). -/
def openCalls (head : List Byte) : List Call :=
  .chipSelect true :: head.map .spiWriteByte

/-- The call that ends a frame (R61). -/
def closeCalls : List Call :=
  [.chipSelect false]

/-- A frame of format `W_CMD` or `W_CMD_ADDR3` (R102): the head bytes and nothing else. -/
def State.sendHead (s : State) (head : List Byte) : State :=
  s.calls (openCalls head ++ closeCalls)

/-- A frame of format `W_CMD_ADDR_TX` (R102): the head bytes, then the data in index order (R56). -/
def State.sendData (s : State) (head data : List Byte) : State :=
  s.calls (openCalls head ++ [.spiWrite data] ++ closeCalls)

/-- A frame of format `W_CMD_RX` or `W_CMD_ADDR_RX` (R102): the head bytes, then `RX(n)`. The success result of `spi_read`
is not examined (R63). -/
def State.sendRead (s : State) (head : List Byte) (n : Nat) : List Byte × State :=
  (s.rxAnswer n, (s.calls (openCalls head ++ [.spiRead (s.rxAnswer n)] ++ closeCalls)).rxConsume n)

/-- `emit DELAY(t)` (R10). -/
def State.wait (s : State) (units : Nat) : State :=
  s.call (.delay units)

/-- `return`: present the response and go to IDLE (R10, R30, R90, R93). -/
def State.respond (s : State) (ret : Word) (rdata : List Byte) (cause : Option Failure) : State :=
  { s with rsp := some { ret := ret, rdata := rdata }, cause := cause, phase := .idle }

/-- A failure return: `false` or 0 with no data, the kind as ghost, nothing else changed (R230, R231, R237). -/
def State.reject (s : State) (kind : Failure) : State :=
  s.respond 0#32 [] (some kind)

/-- The guard that comes before every other check of an operation (R236, R238). -/
def guarded (s : State) (k : Result) : Result :=
  if s.configured then k else .fault .notConfigured

/-- The state in which a presented request runs: taken from the host port, phase RUN (R30, R90). -/
def State.takeRequest (s : State) (rest : List HostReq) : State :=
  { s with hostPort := rest, phase := .run }

/-- `call SET_WREN(enable)`, a frame of its own (R149, R150). -/
def State.setWrenFrame (s : State) (enable : Bool) : State :=
  s.sendHead [if enable then s.params.cmdWriteEnable else s.params.cmdWriteDisable]

/-- `call READ_STATUS()`: the masked byte, and the state after the frame (R141). -/
def State.readStatusFrame (s : State) : Byte × State :=
  let r := s.sendRead [s.params.cmdReadStatus1] 1
  (statusMask s.params (r.1.headD 0#8), r.2)

end Sys2Proof.Machine
end

