-- ==== Sys2Proof/Machine/Configure.lean ====
section
/-! DEFINITION. CONFIG (40_config.md). -/

namespace Sys2Proof.Machine

/-- The geometry of a capacity (R26, R131). -/
def geometryOf (p : Params) (c : Capacity) : Geometry where
  pageSize := BitVec.ofNat 32 p.pageSize
  addressWidth := BitVec.ofNat 32 p.addrWidthCfg
  pageCount := BitVec.ofNat 32 (p.pageCount c)
  totalSize := BitVec.ofNat 32 (p.pageCount c * p.pageSize)

/-- The six writes of R131 as one update (R132). -/
def State.configure (s : State) (c : Capacity) : State :=
  { s with configured := true, binding := allSlots, geo := geometryOf s.params c }

/-- CONFIG(capacity, slots) (R131): no event (R134); on failure nothing but the response changes (R132, R135). -/
def execConfig (capacity : Word) (slots : BitVec 6) (s : State) : Result :=
  if slots ≠ allSlots then .next (s.reject .configuration)
  else
    match capacityOf capacity with
    | none => .next (s.reject .configuration)
    | some c => .next ((s.configure c).respond 1#32 [] none)

end Sys2Proof.Machine
end

