-- ==== Sys2Proof/Machine/Erase.lean ====
section
/-! DEFINITION. WAIT_READY (45_wait_ready.md) and ERASE_SECTOR (46_erase_sector.md). -/

namespace Sys2Proof.Machine

/-- WAIT_READY(T) (R201): poll, ready ends it, else one delay and count down; the argument is `count`. -/
def waitReady : Nat → State → Bool × State
  | 0, s => (false, s)
  | count + 1, s =>
    let r := s.readStatusFrame
    if isBusy s.params r.1 then waitReady count (r.2.wait s.params.tPoll) else (true, r.2)

/-- The erase frame: command and always three address bytes (R108, R115). -/
def State.eraseFrame (s : State) (sector : Nat) : State :=
  s.sendHead (s.params.cmdSectorErase :: addressBytes24 (sectorAddress s.params sector))

/-- Steps 5 and 6 of ERASE_SECTOR (R216): the erase frame, then the second wait. -/
def eraseAndWait (sector : Nat) (s : State) : State :=
  let w := waitReady s.params.tErasePost (s.eraseFrame sector)
  if w.1 then w.2.respond 1#32 [] none else w.2.reject (.timeout .afterErase)

/-- Steps 3 and 4 of ERASE_SECTOR (R216): write enable, one status read with no delay before it, the latch check. -/
def enableAndErase (sector : Nat) (s : State) : State :=
  let r := (s.setWrenFrame true).readStatusFrame
  if isWriteEnabled s.params r.1 then eraseAndWait sector r.2 else r.2.reject .writeLatch

/-- ERASE_SECTOR(sector_number) (R216): the range check, then the first wait, then the rest. -/
def execEraseSector (sector : Word) (s : State) : Result :=
  guarded s <|
    if s.params.sectorCount ≤ sector.toNat then .next (s.reject .range)
    else
      let w := waitReady s.params.tErasePre s
      .next (if w.1 then enableAndErase sector.toNat w.2 else w.2.reject (.timeout .beforeErase))

end Sys2Proof.Machine
end

