-- ==== Sys2Proof/Machine/Read.lean ====
section
/-! DEFINITION. READ (42_read.md). -/

namespace Sys2Proof.Machine

/-- The clamped read length `n` (R161, R162). -/
def clampedLength (total address length : Nat) : Nat :=
  min length (total - address)

/-- READ(address, length) (R161). -/
def execRead (address length : Word) (s : State) : Result :=
  guarded s <|
    if s.geo.totalSize.toNat ≤ address.toNat then .next (s.reject .range)
    else
      match addressBytes s.geo.addressWidth address.toNat with
      | none => .refused .addressWidth
      | some ab =>
        let n := clampedLength s.geo.totalSize.toNat address.toNat length.toNat
        let r := s.sendRead (s.params.cmdDataRead :: ab) n
        .next (r.2.respond (BitVec.ofNat 32 n) r.1 none)

end Sys2Proof.Machine
end

