-- ==== Sys2Proof/Machine/Status.lean ====
section
/-! DEFINITION. READ_STATUS, READ_ID, SET_WREN (41_status_identity.md). -/

namespace Sys2Proof.Machine

/-- READ_STATUS() (R141): the masked status byte, zero-extended. -/
def execReadStatus (s : State) : Result :=
  guarded s <|
    let r := s.readStatusFrame
    .next (r.2.respond (r.1.zeroExtend 32) [] none)

/-- READ_ID() (R145): the first three of the bytes read, packed (R110); the others are discarded. -/
def execReadId (s : State) : Result :=
  guarded s <|
    let r := s.sendRead [s.params.cmdJedecId] s.params.idReadLen
    match r.1 with
    | b0 :: b1 :: b2 :: _ => .next (r.2.respond (packIdentity b0 b1 b2) [] none)
    | _ => .refused .identityTooShort

/-- SET_WREN(enable) (R149): one frame, no value, 0 on the port (R93). -/
def execSetWren (enable : Bool) (s : State) : Result :=
  guarded s (.next ((s.setWrenFrame enable).respond 0#32 [] none))

end Sys2Proof.Machine
end

