-- ==== Sys2Proof/Machine/Wire.lean ====
section
/-! DEFINITION. The seven wire commands (30_encoding.md R111 to R117): one frame each. They give no response of their own; the answer of
an `RX` stands in the trace and is decoded by the operation that sends the frame (log 4). -/

namespace Sys2Proof.Machine

/-- WRITE_ENABLE (R111). -/
def execWriteEnable (s : State) : Result :=
  guarded s (.next (s.setWrenFrame true))

/-- WRITE_DISABLE (R112). -/
def execWriteDisable (s : State) : Result :=
  guarded s (.next (s.setWrenFrame false))

/-- READ_STATUS_1 (R113). -/
def execReadStatus1 (s : State) : Result :=
  guarded s (.next s.readStatusFrame.2)

/-- PAGE_PROGRAM (R114). -/
def execPageProgram (address : Word) (data : List Byte) (s : State) : Result :=
  guarded s <|
    match addressBytes s.geo.addressWidth address.toNat with
    | none => .refused .addressWidth
    | some ab => .next (s.sendData (s.params.cmdPageProgram :: ab) data)

/-- SECTOR_ERASE_4KB (R115): three address bytes whatever the width (R108). -/
def execSectorErase4kb (address : Word) (s : State) : Result :=
  guarded s (.next (s.sendHead (s.params.cmdSectorErase :: addressBytes24 address.toNat)))

/-- DATA_READ (R116). -/
def execDataRead (address count : Word) (s : State) : Result :=
  guarded s <|
    match addressBytes s.geo.addressWidth address.toNat with
    | none => .refused .addressWidth
    | some ab => .next (s.sendRead (s.params.cmdDataRead :: ab) count.toNat).2

/-- JEDEC_ID (R117). -/
def execJedecId (s : State) : Result :=
  guarded s (.next (s.sendRead [s.params.cmdJedecId] s.params.idReadLen).2)

end Sys2Proof.Machine
end

