-- ==== Sys2Proof/Machine/Write.lean ====
section
/-! DEFINITION. WRITE_PAGE (43_write_page.md) and WRITE, the page-boundary splitter (44_write_split.md). -/

namespace Sys2Proof.Machine

/-- What an inline `call WRITE_PAGE` yields to its caller (R10): the count, the ghost cause of a refusal (R232), and the state. -/
structure WriteDone where
  count : Nat
  cause : Option Failure
  state : State
  deriving DecidableEq, Repr

/-- The frames and delays of an accepted page write (R171): write-enable, `DELAY(T_LATCH)`, the program frame with the
framed address bytes `ab`, and `DELAY(T_PROG)` unless `fast_quit` (R177). -/
def State.programPage (s : State) (ab data : List Byte) (fastQuit : Bool) : State :=
  let s1 := (s.setWrenFrame true).wait s.params.tLatch
  let s2 := s1.sendData (s.params.cmdPageProgram :: ab) data
  if fastQuit then s2 else s2.wait s.params.tProg

/-- The pseudocode of WRITE_PAGE as a call (R171): three acceptance checks in order, then the frames. -/
def writePageCall (address : Nat) (wdata : List Byte) (length : Nat) (fastQuit : Bool) (s : State) :
    Host.Outcome WriteDone Fault Refusal :=
  let P := s.geo.pageSize.toNat
  if s.geo.totalSize.toNat ≤ address then .next ⟨0, some .range, s⟩
  else if P < length then .next ⟨0, some .range, s⟩
  else if P = 0 then .refused .pageSizeZero
  else if P < pageOffset P address + length then .next ⟨0, some .range, s⟩
  else
    match addressBytes s.geo.addressWidth (framedAddress P address length) with
    | none => .refused .addressWidth
    | some ab => .next ⟨length, none, s.programPage ab (wdata.take length) fastQuit⟩

/-- The response of a write operation: the count, no data (R93). -/
def finishWrite : Host.Outcome WriteDone Fault Refusal → Result
  | .next d => .next (d.state.respond (BitVec.ofNat 32 d.count) [] d.cause)
  | .fault f => .fault f
  | .refused r => .refused r

/-- WRITE_PAGE(address, wdata, length, fast_quit) (R171); too little data is refused (R53). -/
def execWritePage (address : Word) (wdata : List Byte) (length : Word) (fastQuit : Bool) (s : State) : Result :=
  guarded s <|
    if enoughData wdata length then finishWrite (writePageCall address.toNat wdata length.toNat fastQuit s)
    else .refused .shortWriteData

/-- The chunk loop of WRITE (R186). Each pass lowers `rem` by at least 1 or returns (R190), so `fuel` passes are enough
when `rem ≤ fuel`. -/
def writeLoop (P : Nat) (wdata : List Byte) : (fuel addr off rem total : Nat) → State →
    Host.Outcome WriteDone Fault Refusal
  | 0, _, _, _, total, s => .next ⟨total, none, s⟩
  | fuel + 1, addr, off, rem, total, s =>
    if rem = 0 then .next ⟨total, none, s⟩
    else
      let chunk := min (pageRoom P addr) rem
      match writePageCall addr ((wdata.drop off).take chunk) chunk false s with
      | .next d =>
        if d.count = 0 then .next ⟨total, d.cause, d.state⟩
        else writeLoop P wdata fuel (addr + d.count) (off + d.count) (rem - d.count) (total + d.count) d.state
      | .fault f => .fault f
      | .refused r => .refused r

/-- The pseudocode of WRITE (R186): one page, or the chunk loop. -/
def writeCall (address : Nat) (wdata : List Byte) (length : Nat) (s : State) : Host.Outcome WriteDone Fault Refusal :=
  let P := s.geo.pageSize.toNat
  if P = 0 then .refused .pageSizeZero
  else if pageOffset P address + length ≤ P then writePageCall address wdata length false s
  else writeLoop P wdata length address 0 length 0 s

/-- WRITE(address, wdata, length) (R186); too little data is refused (R53). -/
def execWrite (address : Word) (wdata : List Byte) (length : Word) (s : State) : Result :=
  guarded s <|
    if enoughData wdata length then finishWrite (writeCall address.toNat wdata length.toNat s)
    else .refused .shortWriteData

end Sys2Proof.Machine
end

