-- ==== Sys2Proof/Machine/Dispatch.lean ====
section
/-! DEFINITION. One arm per instruction. -/

namespace Sys2Proof.Machine

/-- The meaning of an instruction. -/
def exec (i : Instr) (s : State) : Host.Outcome State Fault Refusal :=
  match i with
  | .config capacity slots => Sys2Proof.Machine.execConfig capacity slots s
  | .readStatus => Sys2Proof.Machine.execReadStatus s
  | .readId => Sys2Proof.Machine.execReadId s
  | .setWren enable => Sys2Proof.Machine.execSetWren enable s
  | .read address length => Sys2Proof.Machine.execRead address length s
  | .writePage address wdata length fastQuit => Sys2Proof.Machine.execWritePage address wdata length fastQuit s
  | .write address wdata length => Sys2Proof.Machine.execWrite address wdata length s
  | .eraseSector sector => Sys2Proof.Machine.execEraseSector sector s
  | .writeEnable => Sys2Proof.Machine.execWriteEnable s
  | .writeDisable => Sys2Proof.Machine.execWriteDisable s
  | .readStatus1 => Sys2Proof.Machine.execReadStatus1 s
  | .pageProgram address data => Sys2Proof.Machine.execPageProgram address data s
  | .sectorErase4kb address => Sys2Proof.Machine.execSectorErase4kb address s
  | .dataRead address count => Sys2Proof.Machine.execDataRead address count s
  | .jedecId => Sys2Proof.Machine.execJedecId s

end Sys2Proof.Machine
end

