-- ==== Sys2Proof/WellFormed.lean ====
section
/-! DEFINITION. What the spec asks of a request or frame before it has a meaning: enough write data (R53) and an address
that the framing in force can carry (R104, R105). -/

namespace Sys2Proof

open Machine

/-- Well-formedness of an instruction under address width `w`. A host operation is well formed whatever `w` is; a write
needs its data. A wire frame's address must be one the frame carries whole. -/
def Instr.wellFormed (w : Word) : Instr → Bool
  | .config _ _ => true
  | .readStatus => true
  | .readId => true
  | .setWren _ => true
  | .read _ _ => true
  | .writePage _ wdata length _ => enoughData wdata length
  | .write _ wdata length => enoughData wdata length
  | .eraseSector _ => true
  | .writeEnable => true
  | .writeDisable => true
  | .readStatus1 => true
  | .pageProgram address _ => legalWidth w && addressFits w address
  | .sectorErase4kb address => addressFits 24#32 address
  | .dataRead address _ => legalWidth w && addressFits w address
  | .jedecId => true

end Sys2Proof
end

