-- ==== Sys2Proof/Decode.lean ====
section
/-! DEFINITION. The decoder and the encoder: host requests (R91, R92, R94) and wire frames (R101 to R105), and the words of the opcode
table as the host numbers them. -/

namespace Sys2Proof

/-- The operation a host request names. Fields an operation does not use are ignored (R92, R119). -/
def decodeRequest (r : HostReq) : Except DecodeError Instr :=
  if r.op = 0#4 then .ok (.config r.arg0 (r.arg1.setWidth 6))
  else if r.op = 1#4 then .ok .readStatus
  else if r.op = 2#4 then .ok .readId
  else if r.op = 3#4 then .ok (.setWren (r.arg0.getLsbD 0))
  else if r.op = 4#4 then .ok (.read r.arg0 r.arg1)
  else if r.op = 5#4 then .ok (.writePage r.arg0 r.wdata r.arg1 r.flag)
  else if r.op = 6#4 then .ok (.write r.arg0 r.wdata r.arg1)
  else if r.op = 7#4 then .ok (.eraseSector r.arg0)
  else .error (.reservedOp r.op)

/-- The address three bytes carry, upper first (R104). -/
def addressOf24 (hi mid lo : Byte) : Word :=
  (hi.zeroExtend 32 <<< 16) ||| (mid.zeroExtend 32 <<< 8) ||| lo.zeroExtend 32

/-- The address two bytes carry, upper first (R104). -/
def addressOf16 (hi lo : Byte) : Word :=
  (hi.zeroExtend 32 <<< 8) ||| lo.zeroExtend 32

/-- Split the bytes after the command into address and rest; the width must be known (R103). -/
def takeAddress (cmd : Byte) (w : Word) (bytes : List Byte) : Except DecodeError (Word × List Byte) :=
  if w = 24#32 then
    match bytes with
    | hi :: mid :: lo :: rest => .ok (addressOf24 hi mid lo, rest)
    | _ => .error (.malformedFrame cmd)
  else if w = 16#32 then
    match bytes with
    | hi :: lo :: rest => .ok (addressOf16 hi lo, rest)
    | _ => .error (.malformedFrame cmd)
  else .error .addressWidth

/-- A frame of format `W_CMD` or `W_CMD_RX` (R102): nothing after the command, and the read part as stated. -/
def decodePlain (cmd : Byte) (rest : List Byte) (read want : Option Nat) (i : Instr) : Except DecodeError Instr :=
  if rest = [] ∧ read = want then .ok i else .error (.malformedFrame cmd)

/-- A PAGE_PROGRAM frame, `W_CMD_ADDR_TX` (R114). -/
def decodePageProgram (cmd : Byte) (w : Word) (rest : List Byte) (read : Option Nat) : Except DecodeError Instr :=
  match takeAddress cmd w rest, read with
  | .ok (a, data), none => .ok (.pageProgram a data)
  | .ok _, some _ => .error (.malformedFrame cmd)
  | .error e, _ => .error e

/-- A SECTOR_ERASE_4KB frame, `W_CMD_ADDR3`: three address bytes whatever the width (R108, R115). -/
def decodeSectorErase (cmd : Byte) (rest : List Byte) (read : Option Nat) : Except DecodeError Instr :=
  match takeAddress cmd 24#32 rest, read with
  | .ok (a, []), none => .ok (.sectorErase4kb a)
  | .ok _, _ => .error (.malformedFrame cmd)
  | .error e, _ => .error e

/-- A DATA_READ frame, `W_CMD_ADDR_RX` (R116); a count is 32 bits (R92). -/
def decodeDataRead (cmd : Byte) (w : Word) (rest : List Byte) (read : Option Nat) : Except DecodeError Instr :=
  match takeAddress cmd w rest, read with
  | .ok (a, []), some n => if n < 2 ^ 32 then .ok (.dataRead a (BitVec.ofNat 32 n)) else .error (.malformedFrame cmd)
  | .ok _, _ => .error (.malformedFrame cmd)
  | .error e, _ => .error e

/-- The wire command a frame carries, told by its first byte (R101), under address width `w` (R103). -/
def decodeFrame (p : Params) (w : Word) (f : WireFrame) : Except DecodeError Instr :=
  match f.sent with
  | [] => .error .emptyFrame
  | cmd :: rest =>
    if cmd = p.cmdWriteEnable then decodePlain cmd rest f.read none .writeEnable
    else if cmd = p.cmdWriteDisable then decodePlain cmd rest f.read none .writeDisable
    else if cmd = p.cmdReadStatus1 then decodePlain cmd rest f.read (some 1) .readStatus1
    else if cmd = p.cmdPageProgram then decodePageProgram cmd w rest f.read
    else if cmd = p.cmdSectorErase then decodeSectorErase cmd rest f.read
    else if cmd = p.cmdDataRead then decodeDataRead cmd w rest f.read
    else if cmd = p.cmdJedecId then decodePlain cmd rest f.read (some p.idReadLen) .jedecId
    else .error (.unknownCommand cmd)

/-- The instruction an encoded form stands for. -/
def decode (p : Params) (w : Word) : Encoded → Except DecodeError Instr
  | .request r => decodeRequest r
  | .frame f => decodeFrame p w f

/-- A request with the given fields (R92), unused ones zero. -/
def requestWords (op : BitVec 4) (arg0 arg1 : Word := 0#32) (flag : Bool := false) (wdata : List Byte := []) : Encoded :=
  .request { op := op, arg0 := arg0, arg1 := arg1, flag := flag, wdata := wdata }

/-- A frame with the given parts (R102). -/
def frameWords (sent : List Byte) (read : Option Nat := none) : Encoded :=
  .frame { sent := sent, read := read }

/-- The encoding of an instruction, written from R91, R92, R94 (requests) and R101 to R104 (frames); none for an address
that has no framing at width `w`. -/
def encode (p : Params) (w : Word) : Instr → Option Encoded
  | .config capacity slots => some (requestWords 0#4 capacity (slots.setWidth 32))
  | .readStatus => some (requestWords 1#4)
  | .readId => some (requestWords 2#4)
  | .setWren enable => some (requestWords 3#4 (if enable then 1#32 else 0#32))
  | .read address length => some (requestWords 4#4 address length)
  | .writePage address wdata length fastQuit => some (requestWords 5#4 address length fastQuit wdata)
  | .write address wdata length => some (requestWords 6#4 address length false wdata)
  | .eraseSector sector => some (requestWords 7#4 sector)
  | .writeEnable => some (frameWords [p.cmdWriteEnable])
  | .writeDisable => some (frameWords [p.cmdWriteDisable])
  | .readStatus1 => some (frameWords [p.cmdReadStatus1] (some 1))
  | .pageProgram address data =>
    (Machine.addressBytes w address.toNat).map fun ab => frameWords (p.cmdPageProgram :: ab ++ data)
  | .sectorErase4kb address => some (frameWords (p.cmdSectorErase :: Machine.addressBytes24 address.toNat))
  | .dataRead address count =>
    (Machine.addressBytes w address.toNat).map fun ab => frameWords (p.cmdDataRead :: ab) (some count.toNat)
  | .jedecId => some (frameWords [p.cmdJedecId] (some p.idReadLen))

/-- The instruction whose bits are `w` as spec/opcode_table.json numbers them, with every further bit 0. The table's two
spaces overlap: the command bytes 02 to 06 are also the numbers of host operations, and the number alone does not
say which is meant. The host operation wins, and a byte whose low four bits alone are fixed by the table (mask 0xF)
is read by those four bits; the command bytes 0x20 and 0x9F, which are no operation numbers, are read as wire
commands, followed by zero address bytes or their read count. DESIGN CHOICE (log 12). -/
def tableWords (nbits w : Nat) : Encoded :=
  let byte := BitVec.ofNat 8 w
  if 8 ≤ nbits ∧ byte = 0x20#8 then frameWords [byte, 0#8, 0#8, 0#8]
  else if 8 ≤ nbits ∧ byte = 0x9F#8 then frameWords [byte] (some 4)
  else requestWords (BitVec.ofNat 4 w)

/-- The decoder's answer on a word of the opcode table. -/
def decodeTableWord (nbits w : Nat) : Option Instr :=
  match decode Config.params 24#32 (tableWords nbits w) with
  | .ok i => some i
  | .error _ => none

end Sys2Proof
end

