-- ==== Sys2Proof/Machine/Fetch.lean ====
section
/-! DEFINITION. What the next step runs: in IDLE the request on the host port (R30, R90), in RUN the next wire frame of the running
operation (R29, R97). -/

namespace Sys2Proof.Machine

/-- What the fetch finds. -/
inductive Fetched where
  /-- An instruction and the state in which it runs. -/
  | run (i : Instr) (s : State)
  /-- Nothing to run: the state the step leaves. -/
  | stay (s : State)
  /-- A fault of the fetch. -/
  | fault (f : Fault)
  /-- The request or frame has no meaning. -/
  | refused (r : Refusal)
  deriving DecidableEq, Repr

/-- A decoded form, run in state `s`; an undecodable one is refused by name (R95, R118). -/
def runDecoded (s : State) : Except DecodeError Instr → Fetched
  | .ok i => .run i s
  | .error e => .refused (.undecodable e)

/-- IDLE: a presented request starts its operation; with none presented the sequencer waits for the host (R30, R90, R264; log 3). -/
def fetchRequest (s : State) : Fetched :=
  match s.hostPort with
  | [] => .stay s
  | r :: rest => runDecoded (s.takeRequest rest) (decodeRequest r)

/-- RUN: the next frame of the operation, and IDLE when none is left; the address width may be read only when configured
(R103, R238; log 4, log 7). -/
def fetchFrame (s : State) : Fetched :=
  match s.wirePort with
  | [] => .stay { s with phase := .idle }
  | f :: rest =>
    if s.configured then runDecoded { s with wirePort := rest } (decodeFrame s.params s.geo.addressWidth f)
    else .fault .notConfigured

/-- What the next step runs. The host has no move in RUN (R248). -/
def fetch (s : State) : Fetched :=
  match s.phase with
  | .idle => fetchRequest s
  | .run => fetchFrame s

/-- The state with an encoded form where the next step fetches it: a request on the host port in IDLE, a frame on the
wire port in RUN (log 3, log 4). -/
def State.place (s : State) : Encoded → State
  | .request r => { s with phase := .idle, hostPort := r :: s.hostPort }
  | .frame f => { s with phase := .run, wirePort := f :: s.wirePort }

end Sys2Proof.Machine
end

