-- ==== Sys2Proof/Machine/Step.lean ====
section
/-! DEFINITION. One step of the machine. An operation is one atomic step (R29, D29; log 2). -/

namespace Sys2Proof.Machine

/-- One step: fetch, then the instruction's meaning. -/
def step (s : State) : Host.Outcome State Fault Refusal :=
  match fetch s with
  | .run i t => exec i t
  | .stay t => .next t
  | .fault f => .fault f
  | .refused r => .refused r

/-- The state with the opcode table's word placed where the next step fetches (log 3, log 4, log 12). -/
def State.withFetchWord (s : State) (nbits w : Nat) : State :=
  s.place (tableWords nbits w)

end Sys2Proof.Machine
end

