-- ==== Sys2Proof/Safety.lean ====
section
/-! DEFINITION. What counts as a safe run, in the terms claims use: the bus discipline of a trace (R31, R61, R100, R118), the frames of a
trace, the order conditions on program and erase frames (R171, R216), the host's duty of R270, the environment's
premises (R77, R262), the state invariant, and closed forms of what an operation emits. -/

namespace Sys2Proof.Safety

open Sys2Proof.Machine

/-- Where the bus is between two events: outside a frame, just asserted, sending, or after the one `RX` (R100). -/
inductive BusPos where
  | idle
  | opened
  | sending
  | received
  deriving DecidableEq, Repr

/-- One event of a disciplined bus (R61, R100, R118): frames do not nest, the first byte is one of the seven commands,
one `RX` at most and only `CS(0)` after it, delays only between frames. -/
def busStep (p : Params) : BusPos → Event → Option BusPos
  | .idle, .cs true => some .opened
  | .idle, .delay _ => some .idle
  | .opened, .tx b => if b ∈ p.commands then some .sending else none
  | .sending, .tx _ => some .sending
  | .sending, .rx _ => some .received
  | .sending, .cs false => some .idle
  | .received, .cs false => some .idle
  | _, _ => none

/-- The bus after a list of events, if every one of them keeps the discipline. -/
def busRun (p : Params) : BusPos → List Event → Option BusPos
  | pos, [] => some pos
  | pos, e :: es =>
    match busStep p pos e with
    | some pos' => busRun p pos' es
    | none => none

/-- The events keep the discipline and end outside a frame. -/
abbrev Disciplined (p : Params) (es : List Event) : Prop :=
  busRun p .idle es = some .idle

/-- A frame read off a trace: the bytes sent and the answer, if it was read. -/
structure FrameSeen where
  sent : List Byte
  got : Option (List Byte)
  deriving DecidableEq, Repr

/-- A trace as frames and the delays between them. -/
inductive Item where
  | frame (f : FrameSeen)
  | delay (units : Nat)
  deriving DecidableEq, Repr

/-- The items of a list of events, with the frame that is open at its start. -/
def itemsFrom : Option FrameSeen → List Event → List Item
  | _, [] => []
  | none, .cs true :: es => itemsFrom (some { sent := [], got := none }) es
  | none, .delay t :: es => .delay t :: itemsFrom none es
  | none, .cs false :: es => itemsFrom none es
  | none, .tx _ :: es => itemsFrom none es
  | none, .rx _ :: es => itemsFrom none es
  | some f, .tx b :: es => itemsFrom (some { f with sent := f.sent ++ [b] }) es
  | some f, .rx v :: es => itemsFrom (some { f with got := some v }) es
  | some f, .cs false :: es => .frame f :: itemsFrom none es
  | some f, .cs true :: es => itemsFrom (some f) es
  | some f, .delay _ :: es => itemsFrom (some f) es

/-- The items of a trace. -/
def items (es : List Event) : List Item :=
  itemsFrom none es

/-- The item is a frame with this command byte. -/
def Item.hasCommand (cmd : Byte) : Item → Bool
  | .frame f => f.sent.head? == some cmd
  | .delay _ => false

/-- The write-enable frame of R149. -/
def enableItem (p : Params) : Item :=
  .frame { sent := [p.cmdWriteEnable], got := none }

/-- The item is a status frame whose answer, masked, has WRITE_ENABLED set. -/
def Item.latchSeen (p : Params) : Item → Bool
  | .frame { sent := sent, got := some [raw] } =>
    sent == [p.cmdReadStatus1] && isWriteEnabled p (statusMask p raw)
  | _ => false

/-- The item is a status frame whose answer, masked, has BUSY clear. -/
def Item.readySeen (p : Params) : Item → Bool
  | .frame { sent := sent, got := some [raw] } =>
    sent == [p.cmdReadStatus1] && !isBusy p (statusMask p raw)
  | _ => false

/-- What may stand after the two items before it: a program frame only after a write-enable frame and `DELAY(T_LATCH)`
(R171), an erase frame only after a write-enable frame and a status frame that shows the latch (R216). -/
def mayFollow (p : Params) (older newer : Option Item) (now : Item) : Bool :=
  (!now.hasCommand p.cmdPageProgram || (older == some (enableItem p) && newer == some (.delay p.tLatch))) &&
  (!now.hasCommand p.cmdSectorErase ||
    (older == some (enableItem p) && (match newer with | some i => i.latchSeen p | none => false)))

/-- Every item of the list may follow the two before it. -/
def guardedFrom (p : Params) : Option Item → Option Item → List Item → Bool
  | _, _, [] => true
  | older, newer, i :: is => mayFollow p older newer i && guardedFrom p newer (some i) is

/-- Every program and every erase frame of the trace is preceded as R171 and R216 say. -/
abbrev WriteGuarded (p : Params) (es : List Event) : Prop :=
  guardedFrom p none none (items es) = true

/-- A host duty after R270 and R78 on a list of items: once a program or erase frame was sent, no frame but a status
frame until a status frame shows BUSY = 0. The argument says whether the chip may be busy at the start (R262).
DESIGN CHOICE (log 22): R270 asks for the poll only after a program with `fast_quit`, one whose `T_PROG` was too short, or
an erase whose second wait failed, and leaves open when `T_PROG` is too short; here NO `DELAY` counts as long enough, so
every program frame asks for a ready poll and a WRITE over several pages does not keep the duty. -/
def hostWaitsFrom (p : Params) : Bool → List Item → Bool
  | _, [] => true
  | maybeBusy, i :: is =>
    if i.readySeen p then hostWaitsFrom p false is
    else if i.hasCommand p.cmdReadStatus1 then hostWaitsFrom p maybeBusy is
    else
      match i with
      | .delay _ => hostWaitsFrom p maybeBusy is
      | .frame _ =>
        !maybeBusy && hostWaitsFrom p (i.hasCommand p.cmdPageProgram || i.hasCommand p.cmdSectorErase) is

/-- The host kept R270's duty in this trace, in the stricter form of `hostWaitsFrom` and from a chip that may be busy at
the start whatever the first frame is (DESIGN CHOICE, log 22). -/
abbrev HostWaits (p : Params) (es : List Event) : Prop :=
  hostWaitsFrom p true (items es) = true

/-- Environment premise (R77): in these items a status frame that directly follows a write-enable frame shows the
latch set. -/
def latchObeysFrom (p : Params) : Option Item → List Item → Bool
  | _, [] => true
  | before, i :: is =>
    (!(before == some (enableItem p) && i.hasCommand p.cmdReadStatus1) || i.latchSeen p) && latchObeysFrom p (some i) is

/-- Environment premise (R77): the chip sets its latch on every write-enable of the trace. -/
abbrev LatchObeys (p : Params) (es : List Event) : Prop :=
  latchObeysFrom p none (items es) = true

/-- The events of a frame: the head bytes sent, then `body`, between `CS(1)` and `CS(0)` (R61, R102). -/
def frameEvents (head : List Byte) (body : List Event := []) : List Event :=
  .cs true :: head.map .tx ++ body ++ [.cs false]

/-- A status poll that reads `raw` (R113). -/
def pollEvents (p : Params) (raw : Byte) : List Event :=
  frameEvents [p.cmdReadStatus1] [.rx [raw]]

/-- The busy polls of a wait, each followed by `DELAY(T_POLL)` (R201). -/
def busyPolls (p : Params) (raws : List Byte) : List Event :=
  raws.flatMap fun raw => pollEvents p raw ++ [.delay p.tPoll]

/-- A raw status byte that shows BUSY = 1 after masking (R32, R109). -/
def rawBusy (p : Params) (raw : Byte) : Bool :=
  isBusy p (statusMask p raw)

/-- A raw status byte that shows WRITE_ENABLED = 1 after masking (R32, R109). -/
def rawLatched (p : Params) (raw : Byte) : Bool :=
  isWriteEnabled p (statusMask p raw)

/-- The events of an accepted page write (R171): write-enable frame, latch delay, program frame, and the program delay
unless `fast_quit`. -/
def programEvents (p : Params) (ab data : List Byte) (fastQuit : Bool) : List Event :=
  frameEvents [p.cmdWriteEnable] ++ [.delay p.tLatch] ++ frameEvents (p.cmdPageProgram :: ab ++ data) ++
    (if fastQuit then [] else [.delay p.tProg])

/-- The number of pages the range `address .. address + length - 1` touches (R187). -/
def pagesTouched (P address length : Nat) : Nat :=
  if length = 0 then 0 else (address + length - 1) / P - address / P + 1

/-- The chunk of a range that lies in page `q`: its first address and its length (R187). -/
def chunkIn (P address length q : Nat) : Nat × Nat :=
  let first := max address (q * P)
  (first, min (address + length) ((q + 1) * P) - first)

/-- The chunks of a range, one for each page it touches, in order (R187). -/
def chunks (P address length : Nat) : List (Nat × Nat) :=
  (List.range (pagesTouched P address length)).map fun j => chunkIn P address length (address / P + j)

/-- The events of writing a range chunk by chunk, `wdata` starting at `address` (R186, R189); a full-page chunk has its
low address byte forced (R106). -/
def splitEvents (p : Params) (w : Word) (P address : Nat) (wdata : List Byte) (length : Nat) : List Event :=
  (chunks P address length).flatMap fun c =>
    programEvents p ((addressBytes w (framedAddress P c.1 c.2)).getD []) ((wdata.drop (c.1 - address)).take c.2) false

/-- The data bytes of a program frame at address width `w` (R103). -/
def programData (p : Params) (w : Word) : Item → List Byte
  | .frame f => if f.sent.head? = some p.cmdPageProgram then f.sent.drop (1 + w.toNat / 8) else []
  | .delay _ => []

/-- The data bytes of all program frames of a list of events, in order (R190). -/
def programmed (p : Params) (w : Word) (es : List Event) : List Byte :=
  (items es).flatMap (programData p w)

/-- The invariant of the machine between two steps: the parameters are those of R8; a configured machine has all six
operations bound (R25) and its geometry is one of the three of R26, so that `total_size` is `page_count * page_size`
(R23) and the width has a framing (R22); chip-select is deasserted (R31) and the trace keeps the bus discipline
(R61, R100, R118). -/
structure MachineInv (s : State) : Prop where
  params_ok : s.params.Ok
  params_coherent : s.params.Coherent
  bound : s.configured = true → s.binding = allSlots
  geometry : s.configured = true → ∃ c, s.geo = geometryOf s.params c
  deasserted : s.cs = false
  disciplined : Disciplined s.params s.trace

/-- The part of a state that one operation must not change unless it is CONFIG (R38): the geometry registers, the
`configured` flag, the binding, and the parameters. -/
def controlState (s : State) : Params × Bool × BitVec 6 × Geometry :=
  (s.params, s.configured, s.binding, s.geo)

end Sys2Proof.Safety
end

