-- ==== Sys2Proof/Certificates/Slice0/Obligations.lean ====
section
/-! DEFINITION. The statements for the provers, in the order of the spec's files. Each says in its docstring which rule it
formalises. Where a statement writes out a whole next state, what it says of the ghost cause (log 13) and of the oracle's
script and counter `rxIn`, `rxFree` (log 5) is the model's representation of R232 and R62; it holds for every value of them. -/

open Sys2Proof Sys2Proof.Machine Sys2Proof.Safety

/-! ## Reset, start-up, the step -/

/-- R37, R260: what the spec says of the state after reset. (The geometry's zeros, the empty host and wire ports and the
empty response port are the model's choices, log 1, log 3, log 4, log 14, and are not stated here.) -/
def Obligations.ResetIsUnconfiguredAndSilent : Prop :=
  State.reset.configured = false ∧ State.reset.binding = 0#6 ∧ State.reset.phase = .idle ∧
  State.reset.cs = false ∧ State.reset.trace = []

/-- The invariant holds after reset (with the OPEN parameters free within R8's bounds, log 6). -/
def Obligations.ResetMeetsInvariant : Prop :=
  MachineInv State.reset

/-- R30, R90: in IDLE a presented request is taken from the host port, the phase goes to RUN, and the step is the meaning of
the operation the request encodes. The list form of the port is the model's (log 3). -/
def Obligations.StepRunsPresentedRequest : Prop :=
  ∀ (s : State) (r : HostReq) (rest : List HostReq) (i : Instr),
    s.phase = .idle → s.hostPort = r :: rest → decodeRequest r = .ok i →
      step s = exec i { s with hostPort := rest, phase := .run }

/-- R29, R97: in RUN of a configured machine the step is the meaning of the next wire frame the operation still has to
send, decoded at the geometry's address width (log 4). -/
def Obligations.StepRunsNextFrame : Prop :=
  ∀ (s : State) (f : WireFrame) (rest : List WireFrame) (i : Instr),
    s.phase = .run → s.configured = true → s.wirePort = f :: rest →
      decodeFrame s.params s.geo.addressWidth f = .ok i →
      step s = exec i { s with wirePort := rest }

/-- The sequencer with nothing presented stays as it is, and an operation with no frame left ends in IDLE (log 3,
log 4). -/
def Obligations.StepWithNothingToRun : Prop :=
  ∀ s : State,
    (s.phase = .idle → s.hostPort = [] → step s = .next s) ∧
    (s.phase = .run → s.wirePort = [] → step s = .next { s with phase := .idle })

/-- R248: the host has no move in RUN: a step in that phase takes no request. -/
def Obligations.RunningStepTakesNoRequest : Prop :=
  ∀ s t : State, s.phase = .run → step s = .next t → t.hostPort = s.hostPort

/-! ## Encodings -/

/-- R91, R92, R94, R119: what each operation number decodes to; fields it does not use do not matter, and of SET_WREN's
`arg0` only bit 0, of CONFIG's `arg1` only bits 5:0 are read. -/
def Obligations.RequestDecodesByOpAndUsedFields : Prop :=
  ∀ (a0 a1 : Word) (fl : Bool) (wd : List Byte),
    decodeRequest ⟨0, a0, a1, fl, wd⟩ = .ok (.config a0 (a1.extractLsb' 0 6)) ∧
    decodeRequest ⟨1, a0, a1, fl, wd⟩ = .ok .readStatus ∧
    decodeRequest ⟨2, a0, a1, fl, wd⟩ = .ok .readId ∧
    decodeRequest ⟨3, a0, a1, fl, wd⟩ = .ok (.setWren (decide (a0.toNat % 2 = 1))) ∧
    decodeRequest ⟨4, a0, a1, fl, wd⟩ = .ok (.read a0 a1) ∧
    decodeRequest ⟨5, a0, a1, fl, wd⟩ = .ok (.writePage a0 wd a1 fl) ∧
    decodeRequest ⟨6, a0, a1, fl, wd⟩ = .ok (.write a0 wd a1) ∧
    decodeRequest ⟨7, a0, a1, fl, wd⟩ = .ok (.eraseSector a0)

/-- R95: operation numbers 8 to 15 are refused by name, in every state that has one presented. -/
def Obligations.ReservedOperationRefused : Prop :=
  ∀ (s : State) (r : HostReq) (rest : List HostReq),
    8 ≤ r.op.toNat → s.phase = .idle → s.hostPort = r :: rest →
      step s = .refused (.undecodable (.reservedOp r.op))

/-- Words written out from R101 to R104 and R114 to R117, at the default parameters and 24-bit width: each decodes to
the command it stands for. -/
def Obligations.SampleFramesDecode : Prop :=
  let p : Params := { sectorCount := 2048, tProg := 3, timeUnit := 1 }
  decodeFrame p 24 ⟨[0x06], none⟩ = .ok .writeEnable ∧
  decodeFrame p 24 ⟨[0x04], none⟩ = .ok .writeDisable ∧
  decodeFrame p 24 ⟨[0x05], some 1⟩ = .ok .readStatus1 ∧
  decodeFrame p 24 ⟨[0x02, 0x00, 0x01, 0x00, 0x50, 0x72], none⟩ = .ok (.pageProgram 256 [0x50, 0x72]) ∧
  decodeFrame p 24 ⟨[0x20, 0x00, 0x30, 0x00], none⟩ = .ok (.sectorErase4kb 0x3000) ∧
  decodeFrame p 24 ⟨[0x03, 0x12, 0x34, 0x56], some 4⟩ = .ok (.dataRead 0x123456 4) ∧
  decodeFrame p 24 ⟨[0x9F], some 4⟩ = .ok .jedecId

/-- R91 to R94, R101 to R104: every well-formed instruction is the decoding of its encoding, with every operand at every
value the encoding admits, for any parameters whose seven command bytes differ (R101). -/
def Obligations.DecodeOfEncodeIsInstruction : Prop :=
  ∀ (p : Params) (w : Word) (i : Instr), p.commands.Nodup → i.wellFormed w = true →
    ∃ e, encode p w i = some e ∧ decode p w e = .ok i

/-- R100 to R104: a wire frame that decodes is the encoding of what it decodes to: no bit of a frame is dropped. -/
def Obligations.EncodeOfDecodedFrameIsFrame : Prop :=
  ∀ (p : Params) (w : Word) (f : WireFrame) (i : Instr),
    decodeFrame p w f = .ok i → encode p w i = some (.frame f)

/-! ## Wire commands -/

/-- R111, R112, R113, R117: the four commands without an address complete in every configured machine: one frame with the
command byte, and for the two that read an `RX` of 1 and of ID_READ_LEN bytes; nothing else changes. -/
def Obligations.PlainWireCommandsSendOneFrame : Prop :=
  ∀ s : State, s.configured = true →
    exec .writeEnable s = .next
      { s with trace := s.trace ++ [.cs true, .tx s.params.cmdWriteEnable, .cs false], cs := false } ∧
    exec .writeDisable s = .next
      { s with trace := s.trace ++ [.cs true, .tx s.params.cmdWriteDisable, .cs false], cs := false } ∧
    exec .readStatus1 s = .next
      { s with
        trace := s.trace ++ [.cs true, .tx s.params.cmdReadStatus1, .rx (s.rxAnswer 1), .cs false], cs := false
        rxIn := s.rxIn.drop 1, rxFree := s.rxFree + (1 - s.rxIn.length) } ∧
    exec .jedecId s = .next
      { s with
        trace := s.trace ++ [.cs true, .tx s.params.cmdJedecId, .rx (s.rxAnswer s.params.idReadLen), .cs false]
        cs := false
        rxIn := s.rxIn.drop s.params.idReadLen
        rxFree := s.rxFree + (s.params.idReadLen - s.rxIn.length) }

/-- R102, R104, R105, R108, R114, R115, R116: the three commands with an address complete in every configured machine whose
width has a framing (SECTOR_ERASE_4KB at any width, always three bytes): command, address bytes upper first, then the data
or one `RX`; nothing else changes. -/
def Obligations.AddressedWireCommandsSendOneFrame : Prop :=
  ∀ (s : State) (a n : Word) (data : List Byte), s.configured = true →
    (∀ ab, addressBytes s.geo.addressWidth a.toNat = some ab →
      exec (.pageProgram a data) s = .next
        { s with
          trace := s.trace ++ .cs true :: .tx s.params.cmdPageProgram :: (ab ++ data).map .tx ++ [.cs false]
          cs := false } ∧
      exec (.dataRead a n) s = .next
        { s with
          trace := s.trace ++
            .cs true :: .tx s.params.cmdDataRead :: ab.map .tx ++ [.rx (s.rxAnswer n.toNat), .cs false]
          cs := false
          rxIn := s.rxIn.drop n.toNat, rxFree := s.rxFree + (n.toNat - s.rxIn.length) }) ∧
    exec (.sectorErase4kb a) s = .next
      { s with
        trace := s.trace ++
          [.cs true, .tx s.params.cmdSectorErase, .tx (a.extractLsb' 16 8), .tx (a.extractLsb' 8 8),
            .tx (a.extractLsb' 0 8), .cs false]
        cs := false }

/-- R104, R105: the address framing at 24 and at 16 bits is the three and the two low bytes of the address, upper first,
and no other width has one (R22). -/
def Obligations.AddressFraming : Prop :=
  ∀ (w : Word) (a : Nat),
    (w = 24 → addressBytes w a =
      some [BitVec.ofNat 8 (a / 65536), BitVec.ofNat 8 (a / 256), BitVec.ofNat 8 a]) ∧
    (w = 16 → addressBytes w a = some [BitVec.ofNat 8 (a / 256), BitVec.ofNat 8 a]) ∧
    (w ≠ 24 → w ≠ 16 → addressBytes w a = none)

/-- R100, R102: every well-formed wire command executed in a configured machine appends exactly the frame its encoding lays
out, with the oracle's answer where it ends in an `RX`. -/
def Obligations.WireCommandSendsItsEncoding : Prop :=
  ∀ (s : State) (i : Instr), s.configured = true → i.isHost = false → i.wellFormed s.geo.addressWidth = true →
    ∃ f t, encode s.params s.geo.addressWidth i = some (.frame f) ∧ exec i s = .next t ∧
      t.trace = s.trace ++ frameEvents f.sent (match f.read with
        | none => []
        | some n => [.rx (s.rxAnswer n)])

/-- R22: where an address has to be framed by `g.address_width` and that is neither 24 nor 16, the operation is refused
by name: PAGE_PROGRAM and DATA_READ always, READ past its range check, and with enough data and a page size that is not 0
WRITE_PAGE past its three checks and WRITE when its first byte is inside the device (that the refusal comes where the
framing is needed is the model's reading, log 8). -/
def Obligations.OtherAddressWidthRefused : Prop :=
  ∀ (s : State) (a n : Word) (data : List Byte) (fq : Bool), s.configured = true →
    s.geo.addressWidth ≠ 24 → s.geo.addressWidth ≠ 16 →
      exec (.pageProgram a data) s = .refused .addressWidth ∧
      exec (.dataRead a n) s = .refused .addressWidth ∧
      (a.toNat < s.geo.totalSize.toNat →
        exec (.read a n) s = .refused .addressWidth ∧
        (s.geo.pageSize ≠ 0 → n.toNat ≤ data.length →
          exec (.write a data n) s = .refused .addressWidth ∧
          (a.toNat % s.geo.pageSize.toNat + n.toNat ≤ s.geo.pageSize.toNat →
            exec (.writePage a data n fq) s = .refused .addressWidth)))

/-- R100, R102, R118 and U5: a frame that encodes no well-formed wire command is refused by name in a configured machine:
one without a command byte, one whose first byte is none of the seven, and one with a known command byte and another
layout; the frame-by-frame form is the model's (log 4), and U5 is the spec's own treatment. -/
def Obligations.UndecodableFrameRefused : Prop :=
  ∀ (s : State) (f : WireFrame) (rest : List WireFrame),
    s.phase = .run → s.configured = true → s.wirePort = f :: rest →
      (f.sent = [] → step s = .refused (.undecodable .emptyFrame)) ∧
      (∀ cmd bytes, f.sent = cmd :: bytes →
        (cmd ∉ s.params.commands → step s = .refused (.undecodable (.unknownCommand cmd))) ∧
        (cmd ∈ s.params.commands →
          (∀ i : Instr, i.isHost = false → i.wellFormed s.geo.addressWidth = true →
            encode s.params s.geo.addressWidth i ≠ some (.frame f)) →
          ∃ e, step s = .refused (.undecodable e) ∧
            (legalWidth s.geo.addressWidth = true → e = .malformedFrame cmd)))

/-! ## CONFIG -/

/-- R131, R132, R133, R134: CONFIG with all six slots and capacity code 0, 1 or 2 writes the binding, the four geometry
registers and `configured` in one step and returns 1; with a slot missing or any other code it returns 0 and changes
nothing but the response; no event in either case (the spec's decision D22, log 16). The register values are the low 32
bits of the parameters' values, for every parameter record: outside R8 that truncation is the model's own (log 19), and
where the values fit in 32 bits they are R131's own. -/
def Obligations.ConfigWritesAllOrNothing : Prop :=
  ∀ (s : State) (capacity : Word) (slots : BitVec 6),
    (∀ pages, slots = 0b111111#6 →
        (capacity = 0 ∧ pages = s.params.pageCount64 ∨ capacity = 1 ∧ pages = s.params.pageCount128 ∨
          capacity = 2 ∧ pages = s.params.pageCount256) →
      exec (.config capacity slots) s = .next
        { s with
          configured := true
          binding := 0b111111#6
          geo :=
            { pageSize := BitVec.ofNat 32 s.params.pageSize
              addressWidth := BitVec.ofNat 32 s.params.addrWidthCfg
              pageCount := BitVec.ofNat 32 pages
              totalSize := BitVec.ofNat 32 (pages * s.params.pageSize) }
          rsp := some ⟨1, []⟩, cause := none, phase := .idle }) ∧
    (slots ≠ 0b111111#6 ∨ 3 ≤ capacity.toNat →
      exec (.config capacity slots) s = .next
        { s with rsp := some ⟨0, []⟩, cause := some .configuration, phase := .idle })

/-- R26: the whole content of the control registers after a successful CONFIG, for the three capacities, at the default
parameters. -/
def Obligations.ConfigGeometryTable : Prop :=
  ∀ (s : State) (n t u : Nat), s.params = { sectorCount := n, tProg := t, timeUnit := u } →
    ∀ row ∈ ([(0, 32768, 8388608), (1, 65536, 16777216), (2, 131072, 33554432)] : List (Word × Word × Word)),
      ∃ t', exec (.config row.1 0b111111#6) s = .next t' ∧ t'.geo = ⟨256, 24, row.2.1, row.2.2⟩

/-- R135, R137: a CONFIG with all slots and a known capacity ends the same after another CONFIG as without it, so it replaces
what that one wrote, and the same CONFIG twice ends as once. -/
def Obligations.SecondConfigReplacesFirst : Prop :=
  ∀ (s t : State) (c d : Word) (slots : BitVec 6),
    exec (.config c slots) s = .next t → d.toNat < 3 →
      exec (.config d 0b111111#6) t = exec (.config d 0b111111#6) s

/-- R136: after a failed first CONFIG the machine is unconfigured, every operation but CONFIG faults, and a later CONFIG
with good arguments succeeds. -/
def Obligations.FailedFirstConfigLeavesUnconfigured : Prop :=
  ∀ (s t : State) (c : Word) (slots : BitVec 6), s.configured = false →
    exec (.config c slots) s = .next t → t.rsp = some ⟨0, []⟩ →
      t.configured = false ∧
      (∀ i : Instr, i.isHost = true → i.isConfig = false → exec i t = .fault .notConfigured) ∧
      ∀ d : Word, d.toNat < 3 →
        ∃ u, exec (.config d 0b111111#6) t = .next u ∧ u.configured = true ∧ u.rsp = some ⟨1, []⟩

/-- R38 (I-5): no instruction but CONFIG changes a geometry register, `configured` or the binding, and none changes the
parameters (R5); no instruction takes a request or a wire frame, those are the step's. -/
def Obligations.OnlyConfigWritesControlState : Prop :=
  ∀ (i : Instr) (s t : State), exec i s = .next t →
    t.params = s.params ∧ t.hostPort = s.hostPort ∧ t.wirePort = s.wirePort ∧
    (i.isConfig = false → controlState t = controlState s)

/-- R24: nothing clears `configured`: a step from a configured machine leaves it configured. -/
def Obligations.ConfiguredIsNeverCleared : Prop :=
  ∀ s t : State, step s = .next t → s.configured = true → t.configured = true

/-! ## The fault -/

/-- R236, R238: every host operation but CONFIG faults in an unconfigured machine, before every other check. -/
def Obligations.UnconfiguredOperationFaults : Prop :=
  ∀ (i : Instr) (s : State), i.isHost = true → i.isConfig = false → s.configured = false →
    exec i s = .fault .notConfigured

/-- R230, R238: the one fault is NotConfigured, and it arises only in an unconfigured machine, from an instruction other
than CONFIG; so none of the failures of R231 is a fault. -/
def Obligations.FaultOnlyWhenUnconfigured : Prop :=
  ∀ (i : Instr) (s : State) (f : Fault), exec i s = .fault f →
    f = .notConfigured ∧ s.configured = false ∧ i.isConfig = false

/-- R25, R37: the model's reading (log 7): a wire frame in an unconfigured machine, whose transport is not bound, faults. -/
def Obligations.UnconfiguredFrameFaults : Prop :=
  ∀ (i : Instr) (s : State), i.isHost = false → s.configured = false → exec i s = .fault .notConfigured

/-! ## READ_STATUS, READ_ID, SET_WREN -/

/-- R141: READ_STATUS emits one status frame and returns the raw byte masked with ST_BUSY and ST_WRITE_ENABLED; nothing
else changes but the response, the trace and the oracle. -/
def Obligations.ReadStatusReturnsMaskedByte : Prop :=
  ∀ s : State, s.configured = true →
    ∃ raw, s.rxAnswer 1 = [raw] ∧
      exec .readStatus s = .next
        { s with
          trace := s.trace ++ [.cs true, .tx s.params.cmdReadStatus1, .rx [raw], .cs false], cs := false
          rxIn := s.rxIn.drop 1, rxFree := s.rxFree + (1 - s.rxIn.length)
          rsp := some ⟨BitVec.zeroExtend 32 (raw &&& (s.params.stBusy ||| s.params.stWriteEnabled)), []⟩
          cause := none, phase := .idle }

/-- R32, R109, R142: at the default masks the status result is one of 0, 1, 2, 3, with BUSY in bit 0 and WRITE_ENABLED in bit
1 of the raw byte; bits 7 to 2 do not reach it. -/
def Obligations.ReadStatusKeepsTwoBits : Prop :=
  ∀ s : State, s.configured = true → s.params.stBusy = 0x01 → s.params.stWriteEnabled = 0x02 →
    ∃ raw t, s.rxAnswer 1 = [raw] ∧ exec .readStatus s = .next t ∧
      t.rsp = some ⟨BitVec.ofNat 32 (raw.toNat % 4), []⟩

/-- R145, R110, R57: READ_ID emits one identity frame of ID_READ_LEN bytes and returns the first three packed most
significant byte first; the further bytes are read and have no effect (R146). -/
def Obligations.ReadIdPacksFirstThreeBytes : Prop :=
  ∀ s : State, s.configured = true → 3 ≤ s.params.idReadLen →
    ∃ b0 b1 b2 rest, s.rxAnswer s.params.idReadLen = b0 :: b1 :: b2 :: rest ∧
      exec .readId s = .next
        { s with
          trace := s.trace ++ [.cs true, .tx s.params.cmdJedecId, .rx (b0 :: b1 :: b2 :: rest), .cs false]
          cs := false
          rxIn := s.rxIn.drop s.params.idReadLen
          rxFree := s.rxFree + (s.params.idReadLen - s.rxIn.length)
          rsp := some ⟨BitVec.ofNat 32 (b0.toNat * 65536 + b1.toNat * 256 + b2.toNat), []⟩
          cause := none, phase := .idle }

/-- R149, R150: SET_WREN emits one frame of its own with the write-enable or the write-disable command, reads nothing, and
returns 0 on the port. -/
def Obligations.SetWrenSendsOneCommand : Prop :=
  ∀ (s : State) (enable : Bool), s.configured = true →
    exec (.setWren enable) s = .next
      { s with
        trace := s.trace ++
          [.cs true, .tx (if enable then s.params.cmdWriteEnable else s.params.cmdWriteDisable), .cs false]
        cs := false
        rsp := some ⟨0, []⟩, cause := none, phase := .idle }

/-! ## READ -/

/-- R161: READ at or beyond `total_size` returns 0 with no data and issues no transport call; READ inside the device,
where the address width has a framing, emits one data-read frame with the address bytes and one `RX` of the clamped
length, and returns that length and the bytes read. -/
def Obligations.ReadChecksRangeThenReadsClamped : Prop :=
  ∀ (s : State) (a n : Word), s.configured = true →
    (s.geo.totalSize.toNat ≤ a.toNat →
      exec (.read a n) s = .next { s with rsp := some ⟨0, []⟩, cause := some .range, phase := .idle }) ∧
    (∀ ab, a.toNat < s.geo.totalSize.toNat → addressBytes s.geo.addressWidth a.toNat = some ab →
      let k := min n.toNat (s.geo.totalSize.toNat - a.toNat)
      exec (.read a n) s = .next
        { s with
          trace := s.trace ++ .cs true :: .tx s.params.cmdDataRead :: ab.map .tx ++ [.rx (s.rxAnswer k), .cs false]
          cs := false
          rxIn := s.rxIn.drop k, rxFree := s.rxFree + (k - s.rxIn.length)
          rsp := some ⟨BitVec.ofNat 32 k, s.rxAnswer k⟩, cause := none, phase := .idle })

/-- R162: the clamp is not an error: READ returns exactly `total_size - address` when the range overruns the device, else
`length`; at least 1 when `length` is; the data has that many bytes; and no failure is recorded (R233). -/
def Obligations.ReadCountIsClampedLength : Prop :=
  ∀ (s : State) (a n : Word), s.configured = true → a.toNat < s.geo.totalSize.toNat →
    legalWidth s.geo.addressWidth = true →
      ∃ t r, exec (.read a n) s = .next t ∧ t.rsp = some r ∧ t.cause = none ∧
        r.rdata.length = r.ret.toNat ∧
        (s.geo.totalSize.toNat < a.toNat + n.toNat → r.ret.toNat = s.geo.totalSize.toNat - a.toNat) ∧
        (a.toNat + n.toNat ≤ s.geo.totalSize.toNat → r.ret.toNat = n.toNat) ∧
        (1 ≤ n.toNat → 1 ≤ r.ret.toNat)

/-- R105, R276: at 24-bit width a READ at or above 2^24 sends the same frame as the READ 2^24 lower, when neither is
clamped, and, given the same answers, ends in the same state. That the two get the same answers is the model's
representation (log 5: an answer depends on the script alone); a chip is free to answer them differently. -/
def Obligations.UpperHalfReadAliasesLower : Prop :=
  ∀ (s : State) (a n : Word), s.configured = true → s.geo.addressWidth = 24 → 2 ^ 24 ≤ a.toNat →
    a.toNat + n.toNat ≤ s.geo.totalSize.toNat → a.toNat < s.geo.totalSize.toNat →
      ∃ t, exec (.read a n) s = .next t ∧ exec (.read (a - 0x1000000) n) s = .next t

/-! ## WRITE_PAGE -/

/-- R171, R172, R174: a WRITE_PAGE whose address is outside the device, whose length exceeds the page, or which crosses its
page's end returns 0 and issues no transport call; an accepted one, where the address width has a framing, emits the
write-enable frame, `DELAY(T_LATCH)`, the program frame with the framed address and the first `length` data bytes, and
`DELAY(T_PROG)` unless `fast_quit`, and returns `length`; nothing is read. That "outside the device" is at or beyond
`total_size` is the spec's own decision D7 (R172, log 16). -/
def Obligations.WritePageChecksThenProgramsPage : Prop :=
  ∀ (s : State) (a n : Word) (d : List Byte) (fq : Bool), s.configured = true → s.geo.pageSize ≠ 0 →
    n.toNat ≤ d.length →
    (s.geo.totalSize.toNat ≤ a.toNat ∨ s.geo.pageSize.toNat < n.toNat ∨
        s.geo.pageSize.toNat < a.toNat % s.geo.pageSize.toNat + n.toNat →
      exec (.writePage a d n fq) s = .next { s with rsp := some ⟨0, []⟩, cause := some .range, phase := .idle }) ∧
    (∀ ab, a.toNat < s.geo.totalSize.toNat →
      a.toNat % s.geo.pageSize.toNat + n.toNat ≤ s.geo.pageSize.toNat →
      addressBytes s.geo.addressWidth
        (if n = s.geo.pageSize then a.toNat - a.toNat % 256 else a.toNat) = some ab →
      exec (.writePage a d n fq) s = .next
        { s with
          trace := s.trace ++
            ([.cs true, .tx s.params.cmdWriteEnable, .cs false, .delay s.params.tLatch, .cs true,
                .tx s.params.cmdPageProgram] ++
              ab.map .tx ++ (d.take n.toNat).map .tx ++ [.cs false] ++
              (if fq then [] else [.delay s.params.tProg]))
          cs := false
          rsp := some ⟨n, []⟩, cause := none, phase := .idle })

/-- R175, R178: when `length` equals `page_size`, the last address byte an accepted WRITE_PAGE sends is 0, whatever the
low byte of the address, in both framings. -/
def Obligations.FullPageLowAddressByteIsZero : Prop :=
  ∀ (s : State) (a : Word) (d : List Byte) (fq : Bool), s.configured = true →
    legalWidth s.geo.addressWidth = true → s.geo.pageSize.toNat ≤ d.length → a.toNat < s.geo.totalSize.toNat →
    s.geo.pageSize ≠ 0 → a.toNat % s.geo.pageSize.toNat = 0 →
      ∃ upper t, exec (.writePage a d s.geo.pageSize fq) s = .next t ∧
        upper.length + 1 = s.geo.addressWidth.toNat / 8 ∧
        t.trace = s.trace ++
          programEvents s.params (upper ++ [0]) (d.take s.geo.pageSize.toNat) fq

/-- R173: a WRITE_PAGE that reports no failure lies wholly inside the device, given R23's `total_size`. -/
def Obligations.AcceptedPageWriteInsideDevice : Prop :=
  ∀ (s t : State) (a n : Word) (d : List Byte) (fq : Bool),
    s.geo.totalSize.toNat = s.geo.pageCount.toNat * s.geo.pageSize.toNat →
    exec (.writePage a d n fq) s = .next t → t.cause = none →
      a.toNat + n.toNat ≤ s.geo.totalSize.toNat

/-- R53: a write request with fewer data bytes than its length is refused by name (that this comes before the range checks
is the model's reading, log 11). -/
def Obligations.ShortWriteDataRefused : Prop :=
  ∀ (s : State) (a n : Word) (d : List Byte) (fq : Bool), s.configured = true → d.length < n.toNat →
    exec (.writePage a d n fq) s = .refused .shortWriteData ∧
    exec (.write a d n) s = .refused .shortWriteData

/-- R8, R9: the model's reading (log 9): with `g.page_size = 0` no page offset is defined, and the write operations that
need one are refused by name. -/
def Obligations.ZeroPageSizeRefused : Prop :=
  ∀ (s : State) (a n : Word) (d : List Byte) (fq : Bool), s.configured = true → s.geo.pageSize = 0 →
    n.toNat ≤ d.length →
      exec (.write a d n) s = .refused .pageSizeZero ∧
      (a.toNat < s.geo.totalSize.toNat → n = 0 → exec (.writePage a d n fq) s = .refused .pageSizeZero)

/-! ## WRITE -/

/-- R186, R191: a WRITE whose range fits in one page IS the WRITE_PAGE with `fast_quit = false`, zero length included. -/
def Obligations.OnePageWriteIsWritePage : Prop :=
  ∀ (s : State) (a n : Word) (d : List Byte), s.geo.pageSize ≠ 0 →
    a.toNat % s.geo.pageSize.toNat + n.toNat ≤ s.geo.pageSize.toNat →
      exec (.write a d n) s = exec (.writePage a d n false) s

/-- R186 to R190: a WRITE of at least one byte writes its range page by page up to the end of the device: the events
are those of one accepted page write for each page touched, in order, each followed by `DELAY(T_PROG)`; the count is
what lies inside the device, and a range that runs past it is recorded as a Range error (R231) with nothing undone.
The delay after every chunk is the spec's own decision D16 (R189, log 16). -/
def Obligations.WriteSplitsAtPageBoundaries : Prop :=
  ∀ (s : State) (a n : Word) (d : List Byte), s.configured = true → s.cs = false →
    legalWidth s.geo.addressWidth = true → s.geo.pageSize ≠ 0 →
    s.geo.totalSize.toNat = s.geo.pageCount.toNat * s.geo.pageSize.toNat →
    1 ≤ n.toNat → n.toNat ≤ d.length →
      let m := min n.toNat (s.geo.totalSize.toNat - a.toNat)
      exec (.write a d n) s = .next
        { s with
          trace := s.trace ++
            splitEvents s.params s.geo.addressWidth s.geo.pageSize.toNat a.toNat d m
          rsp := some ⟨BitVec.ofNat 32 m, []⟩
          cause := if m = n.toNat then none else some .range
          phase := .idle }

/-- R187: the shape of the chunks: as many as pages touched; every chunk is non-empty, starts in its page and ends inside
it; each starts where the one before ended, the first at the range's start, and together they have its length. -/
def Obligations.ChunksTileTheRange : Prop :=
  ∀ (P a n : Nat), 0 < P → 0 < n →
    (chunks P a n).length = (a + n - 1) / P - a / P + 1 ∧
    (∀ c ∈ chunks P a n, 0 < c.2 ∧ c.1 % P + c.2 ≤ P) ∧
    ((chunks P a n).map Prod.snd).sum = n ∧
    (chunks P a n).head?.map Prod.fst = some a ∧
    ∀ j c e, (chunks P a n)[j]? = some c → (chunks P a n)[j + 1]? = some e → e.1 = c.1 + c.2

/-- R56, R188, R190: the data bytes in the program frames a WRITE emits are, in order, the first `ret` bytes of its data:
what was reported written was sent, and nothing else. -/
def Obligations.WriteSendsReportedBytesInOrder : Prop :=
  ∀ (s t : State) (a n : Word) (d : List Byte), s.params.commands.Nodup → exec (.write a d n) s = .next t →
      ∃ r es, t.rsp = some r ∧ t.trace = s.trace ++ es ∧ r.ret.toNat ≤ n.toNat ∧
        programmed s.params s.geo.addressWidth es = d.take r.ret.toNat

/-- R188, its forward half: a WRITE that runs past the end of the device reports exactly the bytes up to that end,
`total_size - address`, or 0 when it starts beyond it; the program frames it emitted carry exactly those bytes and stay
in the trace, and a WRITE that starts beyond the end emits nothing. That a range inside the device is reported in full
is WriteSplitsAtPageBoundaries. That the device ends at `total_size` for a write is the spec's own decision D7 (R172,
log 16). -/
def Obligations.PartialWriteIsReportedAndKept : Prop :=
  ∀ (s : State) (a n : Word) (d : List Byte), s.configured = true → s.cs = false → s.params.commands.Nodup →
    legalWidth s.geo.addressWidth = true → s.geo.pageSize ≠ 0 →
    s.geo.totalSize.toNat = s.geo.pageCount.toNat * s.geo.pageSize.toNat →
    n.toNat ≤ d.length → s.geo.totalSize.toNat < a.toNat + n.toNat →
      ∃ t es, exec (.write a d n) s = .next t ∧ t.trace = s.trace ++ es ∧
        t.rsp = some ⟨BitVec.ofNat 32 (s.geo.totalSize.toNat - a.toNat), []⟩ ∧
        programmed s.params s.geo.addressWidth es = d.take (s.geo.totalSize.toNat - a.toNat) ∧
        (s.geo.totalSize.toNat ≤ a.toNat → es = [])

/-- R170, R192, R33: SET_WREN, WRITE_PAGE and WRITE read nothing from the chip: whatever the oracle would answer, they do the
same, and they use none of its answers. -/
def Obligations.WritesNeverReadTheChip : Prop :=
  ∀ (i : Instr) (s t : State) (rx : List Byte) (k : Nat),
    (∃ e, i = .setWren e) ∨ (∃ a d n f, i = .writePage a d n f) ∨ (∃ a d n, i = .write a d n) →
    exec i s = .next t →
      t.rxIn = s.rxIn ∧ t.rxFree = s.rxFree ∧
      exec i { s with rxIn := rx, rxFree := k } = .next { t with rxIn := rx, rxFree := k }

/-! ## WAIT_READY -/

/-- R201, R202: WAIT_READY(T) ends with true right after the first poll that reads BUSY = 0, if that is among the first T,
after one delay for each busy poll before it; if the first T polls all read BUSY = 1 it ends with false after T polls and
T delays, and T = 0 emits nothing. The loop's shape is the spec's own decision D8 (log 16). -/
def Obligations.WaitReadyCountsPolls : Prop :=
  ∀ (T : Nat) (s : State), s.cs = false →
    (∀ (busy : List Byte) (raw : Byte), busy.length < T → s.rxAnswer (busy.length + 1) = busy ++ [raw] →
      (∀ b ∈ busy, rawBusy s.params b = true) → rawBusy s.params raw = false →
        waitReady T s = (true,
          { s with
            trace := s.trace ++ busyPolls s.params busy ++ pollEvents s.params raw
            rxIn := s.rxIn.drop (busy.length + 1)
            rxFree := s.rxFree + (busy.length + 1 - s.rxIn.length) })) ∧
    ((∀ b ∈ s.rxAnswer T, rawBusy s.params b = true) →
      waitReady T s = (false,
        { s with
          trace := s.trace ++ busyPolls s.params (s.rxAnswer T)
          rxIn := s.rxIn.drop T
          rxFree := s.rxFree + (T - s.rxIn.length) }))

/-! ## ERASE_SECTOR -/

/-- R216 step 1, R217: a sector number at or beyond SECTOR_COUNT returns false with no transport call, busy chip or not
(R236). -/
def Obligations.EraseBeyondSectorCountRejected : Prop :=
  ∀ (s : State) (x : Word), s.configured = true → s.params.sectorCount ≤ x.toNat →
    exec (.eraseSector x) s = .next { s with rsp := some ⟨0, []⟩, cause := some .range, phase := .idle }

/-- R216 step 2, R218: when the T_ERASE_PRE polls of the first wait all read busy, ERASE_SECTOR returns false having
sent status frames and delays only: a busy chip is never sent a write-enable. The loop's shape is the spec's own
decision D8 (log 16). -/
def Obligations.EraseFirstWaitTimesOut : Prop :=
  ∀ (s : State) (x : Word), s.configured = true → s.cs = false → x.toNat < s.params.sectorCount →
    (∀ b ∈ s.rxAnswer s.params.tErasePre, rawBusy s.params b = true) →
      exec (.eraseSector x) s = .next
        { s with
          trace := s.trace ++ busyPolls s.params (s.rxAnswer s.params.tErasePre)
          rxIn := s.rxIn.drop s.params.tErasePre
          rxFree := s.rxFree + (s.params.tErasePre - s.rxIn.length)
          rsp := some ⟨0, []⟩, cause := some (.timeout .beforeErase), phase := .idle }

/-- R216 steps 3 and 4, R218: when the chip gets ready but the status after write-enable does not show WRITE_ENABLED,
ERASE_SECTOR returns false: no erase frame, no write-disable, no retry (R234). The loop's shape is the spec's own
decision D8 (log 16). -/
def Obligations.EraseLatchCheckFails : Prop :=
  ∀ (s : State) (x : Word) (busy : List Byte) (ready st : Byte), s.configured = true → s.cs = false →
    x.toNat < s.params.sectorCount → busy.length < s.params.tErasePre →
    s.rxAnswer (busy.length + 2) = busy ++ [ready, st] →
    (∀ b ∈ busy, rawBusy s.params b = true) → rawBusy s.params ready = false → rawLatched s.params st = false →
      exec (.eraseSector x) s = .next
        { s with
          trace := s.trace ++ (busyPolls s.params busy ++ pollEvents s.params ready ++
            frameEvents [s.params.cmdWriteEnable] ++ pollEvents s.params st)
          rxIn := s.rxIn.drop (busy.length + 2)
          rxFree := s.rxFree + (busy.length + 2 - s.rxIn.length)
          rsp := some ⟨0, []⟩, cause := some .writeLatch, phase := .idle }

/-- R216 step 6, R218: when the latch is seen but the T_ERASE_POST polls after the erase frame all read busy,
ERASE_SECTOR returns false although the erase frame was sent in full. The loop's shape is the spec's own decision D8
(log 16). -/
def Obligations.EraseSecondWaitTimesOut : Prop :=
  ∀ (s : State) (x : Word) (busy after : List Byte) (ready st : Byte), s.configured = true → s.cs = false →
    x.toNat < s.params.sectorCount → busy.length < s.params.tErasePre →
    after.length = s.params.tErasePost →
    s.rxAnswer (busy.length + 2 + after.length) = busy ++ [ready, st] ++ after →
    (∀ b ∈ busy, rawBusy s.params b = true) → rawBusy s.params ready = false → rawLatched s.params st = true →
    (∀ b ∈ after, rawBusy s.params b = true) →
      exec (.eraseSector x) s = .next
        { s with
          trace := s.trace ++ (busyPolls s.params busy ++ pollEvents s.params ready ++
            frameEvents [s.params.cmdWriteEnable] ++ pollEvents s.params st ++
            frameEvents (s.params.cmdSectorErase :: addressBytes24 (x.toNat * s.params.sectorSize)) ++
            busyPolls s.params after)
          rxIn := s.rxIn.drop (busy.length + 2 + after.length)
          rxFree := s.rxFree + (busy.length + 2 + after.length - s.rxIn.length)
          rsp := some ⟨0, []⟩, cause := some (.timeout .afterErase), phase := .idle }

/-- R216, R217, R107: a successful ERASE_SECTOR issues, in order, the busy polls of the first wait and its ready poll,
the write-enable frame, the status check that shows the latch, the erase frame with the 3-byte address `sector_number
* SECTOR_SIZE`, and the polls of the second wait, and returns true. The loop's shape is the spec's own decision D8
(log 16). -/
def Obligations.EraseSucceedsInOrder : Prop :=
  ∀ (s : State) (x : Word) (busy after : List Byte) (ready st done : Byte), s.configured = true → s.cs = false →
    x.toNat < s.params.sectorCount → busy.length < s.params.tErasePre → after.length < s.params.tErasePost →
    s.rxAnswer (busy.length + 2 + after.length + 1) = busy ++ [ready, st] ++ after ++ [done] →
    (∀ b ∈ busy, rawBusy s.params b = true) → rawBusy s.params ready = false → rawLatched s.params st = true →
    (∀ b ∈ after, rawBusy s.params b = true) → rawBusy s.params done = false →
      exec (.eraseSector x) s = .next
        { s with
          trace := s.trace ++ (busyPolls s.params busy ++ pollEvents s.params ready ++
            frameEvents [s.params.cmdWriteEnable] ++ pollEvents s.params st ++
            frameEvents (s.params.cmdSectorErase :: addressBytes24 (x.toNat * s.params.sectorSize)) ++
            busyPolls s.params after ++ pollEvents s.params done)
          rxIn := s.rxIn.drop (busy.length + 2 + after.length + 1)
          rxFree := s.rxFree + (busy.length + 2 + after.length + 1 - s.rxIn.length)
          rsp := some ⟨1, []⟩, cause := none, phase := .idle }

/-- R216, R217, R201: every ERASE_SECTOR that ends has issued, in order, busy-poll, write-enable, status re-check,
erase command with address, busy-poll, up to the first of them that failed: it returns false with no event for a
sector at or beyond SECTOR_COUNT, false if either poll times out or the re-check fails, and true only after all five.
That a wait times out after exactly its budget of polls, with a delay after each busy one, is the spec's own decision
D8 (R201, log 16). -/
def Obligations.EraseIssuesStepsInOrder : Prop :=
  ∀ (s t : State) (x : Word), exec (.eraseSector x) s = .next t →
    (s.params.sectorCount ≤ x.toNat → t.trace = s.trace ∧ t.rsp = some ⟨0, []⟩) ∧
    (x.toNat < s.params.sectorCount →
      ∃ (busy after : List Byte) (ready st : Byte),
        (∀ b ∈ busy ++ after, rawBusy s.params b = true) ∧ rawBusy s.params ready = false ∧
        let enable := frameEvents [s.params.cmdWriteEnable]
        let erase := frameEvents (s.params.cmdSectorErase :: addressBytes24 (x.toNat * s.params.sectorSize))
        let checked := busyPolls s.params busy ++ pollEvents s.params ready ++ enable ++ pollEvents s.params st
        (busy.length = s.params.tErasePre ∧ t.trace = s.trace ++ busyPolls s.params busy ∧ t.rsp = some ⟨0, []⟩) ∨
        (busy.length < s.params.tErasePre ∧ rawLatched s.params st = false ∧ t.trace = s.trace ++ checked ∧
          t.rsp = some ⟨0, []⟩) ∨
        (busy.length < s.params.tErasePre ∧ rawLatched s.params st = true ∧ after.length = s.params.tErasePost ∧
          t.trace = s.trace ++ (checked ++ erase ++ busyPolls s.params after) ∧ t.rsp = some ⟨0, []⟩) ∨
        (busy.length < s.params.tErasePre ∧ rawLatched s.params st = true ∧ after.length < s.params.tErasePost ∧
          (∃ done, rawBusy s.params done = false ∧
            t.trace = s.trace ++ (checked ++ erase ++ busyPolls s.params after ++ pollEvents s.params done)) ∧
          t.rsp = some ⟨1, []⟩))

/-- R215, R27, R108: ERASE_SECTOR reads no geometry register: with any other geometry it does the same. -/
def Obligations.EraseReadsNoGeometry : Prop :=
  ∀ (s t : State) (x : Word) (g : Geometry), exec (.eraseSector x) s = .next t →
    exec (.eraseSector x) { s with geo := g } = .next { t with geo := g }

/-- R204, R221: an ERASE_SECTOR always returns in a configured machine, and what it emits is bounded by its two
budgets: at most five events a poll and its delay, and the write-enable, check and erase frames. The loop's shape is
the spec's own decision D8 (log 16). -/
def Obligations.EraseReturnsWithinBudget : Prop :=
  ∀ (s : State) (x : Word), s.configured = true →
    ∃ t, exec (.eraseSector x) s = .next t ∧
      t.trace.length ≤ s.trace.length + 5 * s.params.tErasePre + 13 + 5 * s.params.tErasePost

/-! ## The whole machine -/

/-- R23, R25, R31, R61, R100, R118: every step from a state that meets the invariant ends in one that meets it: the
geometry stays one of the three of R26 with `total_size = page_count * page_size`, chip-select is deasserted between
steps, and the trace keeps the bus discipline: frames never nest, begin with one of the seven command bytes, hold every
byte, and delays lie between them. -/
def Obligations.StepKeepsInvariant : Prop :=
  ∀ s t : State, MachineInv s → step s = .next t → MachineInv t

/-- R23: in every state that meets the invariant, a configured machine has `total_size = page_count * page_size`, exactly. -/
def Obligations.TotalSizeIsPageCountTimesPageSize : Prop :=
  ∀ s : State, MachineInv s → s.configured = true →
    s.geo.totalSize.toNat = s.geo.pageCount.toNat * s.geo.pageSize.toNat ∧ s.geo.pageSize ≠ 0 ∧
    legalWidth s.geo.addressWidth = true

/-- R35, R61, R66: whatever an instruction does to the trace is to append complete, disciplined frames and delays; no
event is removed, changed or left open. -/
def Obligations.InstructionAppendsWholeFrames : Prop :=
  ∀ (i : Instr) (s t : State), exec i s = .next t →
    ∃ es, t.trace = s.trace ++ es ∧ Disciplined s.params es

/-- R171, R216 (I-8, I-9): in a machine run by host requests, every program frame is preceded by the write-enable frame and
`DELAY(T_LATCH)`, and every erase frame by the write-enable frame and a status frame that shows the latch: a step of
phase IDLE keeps that true of the whole trace. -/
def Obligations.HostStepsKeepWriteGuards : Prop :=
  ∀ s t : State, MachineInv s → s.phase = .idle → WriteGuarded s.params s.trace → step s = .next t →
    WriteGuarded t.params t.trace

/-- R30, R90, R93: a host operation that ends leaves phase IDLE, chip-select deasserted where it was so before, and a
response whose data is empty unless the operation is READ, where it has `ret` bytes. -/
def Obligations.HostOperationRespondsInIdle : Prop :=
  ∀ (i : Instr) (s t : State), i.isHost = true → exec i s = .next t →
    t.phase = .idle ∧ (s.cs = false → t.cs = false) ∧
    ∃ r, t.rsp = some r ∧
      (((∃ a n, i = .read a n) ∧ r.rdata.length = r.ret.toNat) ∨ ((∀ a n, i ≠ .read a n) ∧ r.rdata = []))

/-- R231, R237: which operation records which kind of failure, and what it leaves: the control state unchanged, phase IDLE,
chip-select deasserted, the failing value on the port, and for a Configuration or Range error of a single call no event. -/
def Obligations.FailureReturnsLeaveControlState : Prop :=
  ∀ (i : Instr) (s t : State) (k : Failure), i.isHost = true → s.cs = false → exec i s = .next t →
    t.cause = some k →
      controlState t = controlState s ∧ t.phase = .idle ∧ t.cs = false ∧
      (k = .configuration → i.isConfig = true) ∧
      (k = .range → (∃ a n, i = .read a n) ∨ (∃ a d n f, i = .writePage a d n f) ∨ (∃ a d n, i = .write a d n) ∨
        ∃ x, i = .eraseSector x) ∧
      ((∃ p, k = .timeout p) ∨ k = .writeLatch → ∃ x, i = .eraseSector x) ∧
      ((∃ a d n, i = .write a d n) ∨ ∃ v, t.rsp = some v ∧ v = ⟨0, []⟩) ∧
      (k = .configuration ∨ k = .range → (∃ a d n, i = .write a d n) ∨ t.trace = s.trace)

/-- R62: whether the sequencer has a next step never depends on an answer's value: an instruction that ends with one
script of the oracle ends with every other. -/
def Obligations.NextStepExistsForEveryAnswer : Prop :=
  ∀ (i : Instr) (s t : State) (rx : List Byte) (k : Nat), exec i s = .next t →
    ∃ t', exec i { s with rxIn := rx, rxFree := k } = .next t'
end

