-- ==== Sys2Proof/Laws/State.lean ====
section
/-! SUPPORT. One lemma per field per update of the state, each true by rfl. -/

namespace Sys2Proof.Machine

/-! Presenting a response writes the port, the ghost cause and the phase. -/

@[simp] theorem State.respond_params (s : State) (ret : Word) (rdata : List Byte) (cause : Option Failure) :
    (s.respond ret rdata cause).params = s.params := rfl

@[simp] theorem State.respond_configured (s : State) (ret : Word) (rdata : List Byte) (cause : Option Failure) :
    (s.respond ret rdata cause).configured = s.configured := rfl

@[simp] theorem State.respond_binding (s : State) (ret : Word) (rdata : List Byte) (cause : Option Failure) :
    (s.respond ret rdata cause).binding = s.binding := rfl

@[simp] theorem State.respond_geo (s : State) (ret : Word) (rdata : List Byte) (cause : Option Failure) :
    (s.respond ret rdata cause).geo = s.geo := rfl

@[simp] theorem State.respond_phase (s : State) (ret : Word) (rdata : List Byte) (cause : Option Failure) :
    (s.respond ret rdata cause).phase = .idle := rfl

@[simp] theorem State.respond_cs (s : State) (ret : Word) (rdata : List Byte) (cause : Option Failure) :
    (s.respond ret rdata cause).cs = s.cs := rfl

@[simp] theorem State.respond_trace (s : State) (ret : Word) (rdata : List Byte) (cause : Option Failure) :
    (s.respond ret rdata cause).trace = s.trace := rfl

@[simp] theorem State.respond_rsp (s : State) (ret : Word) (rdata : List Byte) (cause : Option Failure) :
    (s.respond ret rdata cause).rsp = some { ret := ret, rdata := rdata } := rfl

@[simp] theorem State.respond_cause (s : State) (ret : Word) (rdata : List Byte) (cause : Option Failure) :
    (s.respond ret rdata cause).cause = cause := rfl

@[simp] theorem State.respond_hostPort (s : State) (ret : Word) (rdata : List Byte) (cause : Option Failure) :
    (s.respond ret rdata cause).hostPort = s.hostPort := rfl

@[simp] theorem State.respond_wirePort (s : State) (ret : Word) (rdata : List Byte) (cause : Option Failure) :
    (s.respond ret rdata cause).wirePort = s.wirePort := rfl

@[simp] theorem State.respond_rxIn (s : State) (ret : Word) (rdata : List Byte) (cause : Option Failure) :
    (s.respond ret rdata cause).rxIn = s.rxIn := rfl

@[simp] theorem State.respond_rxFree (s : State) (ret : Word) (rdata : List Byte) (cause : Option Failure) :
    (s.respond ret rdata cause).rxFree = s.rxFree := rfl

/-! A failure return writes the port, the ghost cause and the phase (R237). -/

@[simp] theorem State.reject_params (s : State) (kind : Failure) :
    (s.reject kind).params = s.params := rfl

@[simp] theorem State.reject_configured (s : State) (kind : Failure) :
    (s.reject kind).configured = s.configured := rfl

@[simp] theorem State.reject_binding (s : State) (kind : Failure) :
    (s.reject kind).binding = s.binding := rfl

@[simp] theorem State.reject_geo (s : State) (kind : Failure) :
    (s.reject kind).geo = s.geo := rfl

@[simp] theorem State.reject_phase (s : State) (kind : Failure) :
    (s.reject kind).phase = .idle := rfl

@[simp] theorem State.reject_cs (s : State) (kind : Failure) :
    (s.reject kind).cs = s.cs := rfl

@[simp] theorem State.reject_trace (s : State) (kind : Failure) :
    (s.reject kind).trace = s.trace := rfl

@[simp] theorem State.reject_rsp (s : State) (kind : Failure) :
    (s.reject kind).rsp = some { ret := 0#32, rdata := [] } := rfl

@[simp] theorem State.reject_cause (s : State) (kind : Failure) :
    (s.reject kind).cause = some kind := rfl

@[simp] theorem State.reject_hostPort (s : State) (kind : Failure) :
    (s.reject kind).hostPort = s.hostPort := rfl

@[simp] theorem State.reject_wirePort (s : State) (kind : Failure) :
    (s.reject kind).wirePort = s.wirePort := rfl

@[simp] theorem State.reject_rxIn (s : State) (kind : Failure) :
    (s.reject kind).rxIn = s.rxIn := rfl

@[simp] theorem State.reject_rxFree (s : State) (kind : Failure) :
    (s.reject kind).rxFree = s.rxFree := rfl

/-! A transport call writes the trace and chip-select. -/

@[simp] theorem State.call_params (s : State) (c : Call) :
    (s.call c).params = s.params := rfl

@[simp] theorem State.call_configured (s : State) (c : Call) :
    (s.call c).configured = s.configured := rfl

@[simp] theorem State.call_binding (s : State) (c : Call) :
    (s.call c).binding = s.binding := rfl

@[simp] theorem State.call_geo (s : State) (c : Call) :
    (s.call c).geo = s.geo := rfl

@[simp] theorem State.call_phase (s : State) (c : Call) :
    (s.call c).phase = s.phase := rfl

@[simp] theorem State.call_cs (s : State) (c : Call) :
    (s.call c).cs = c.level s.cs := rfl

@[simp] theorem State.call_trace (s : State) (c : Call) :
    (s.call c).trace = s.trace ++ c.events := rfl

@[simp] theorem State.call_rsp (s : State) (c : Call) :
    (s.call c).rsp = s.rsp := rfl

@[simp] theorem State.call_cause (s : State) (c : Call) :
    (s.call c).cause = s.cause := rfl

@[simp] theorem State.call_hostPort (s : State) (c : Call) :
    (s.call c).hostPort = s.hostPort := rfl

@[simp] theorem State.call_wirePort (s : State) (c : Call) :
    (s.call c).wirePort = s.wirePort := rfl

@[simp] theorem State.call_rxIn (s : State) (c : Call) :
    (s.call c).rxIn = s.rxIn := rfl

@[simp] theorem State.call_rxFree (s : State) (c : Call) :
    (s.call c).rxFree = s.rxFree := rfl

/-! A delay writes the trace alone. -/

@[simp] theorem State.wait_params (s : State) (units : Nat) :
    (s.wait units).params = s.params := rfl

@[simp] theorem State.wait_configured (s : State) (units : Nat) :
    (s.wait units).configured = s.configured := rfl

@[simp] theorem State.wait_binding (s : State) (units : Nat) :
    (s.wait units).binding = s.binding := rfl

@[simp] theorem State.wait_geo (s : State) (units : Nat) :
    (s.wait units).geo = s.geo := rfl

@[simp] theorem State.wait_phase (s : State) (units : Nat) :
    (s.wait units).phase = s.phase := rfl

@[simp] theorem State.wait_cs (s : State) (units : Nat) :
    (s.wait units).cs = s.cs := rfl

@[simp] theorem State.wait_trace (s : State) (units : Nat) :
    (s.wait units).trace = s.trace ++ [.delay units] := rfl

@[simp] theorem State.wait_rsp (s : State) (units : Nat) :
    (s.wait units).rsp = s.rsp := rfl

@[simp] theorem State.wait_cause (s : State) (units : Nat) :
    (s.wait units).cause = s.cause := rfl

@[simp] theorem State.wait_hostPort (s : State) (units : Nat) :
    (s.wait units).hostPort = s.hostPort := rfl

@[simp] theorem State.wait_wirePort (s : State) (units : Nat) :
    (s.wait units).wirePort = s.wirePort := rfl

@[simp] theorem State.wait_rxIn (s : State) (units : Nat) :
    (s.wait units).rxIn = s.rxIn := rfl

@[simp] theorem State.wait_rxFree (s : State) (units : Nat) :
    (s.wait units).rxFree = s.rxFree := rfl

/-! An answer is taken from the oracle alone. -/

@[simp] theorem State.rxConsume_params (s : State) (n : Nat) :
    (s.rxConsume n).params = s.params := rfl

@[simp] theorem State.rxConsume_configured (s : State) (n : Nat) :
    (s.rxConsume n).configured = s.configured := rfl

@[simp] theorem State.rxConsume_binding (s : State) (n : Nat) :
    (s.rxConsume n).binding = s.binding := rfl

@[simp] theorem State.rxConsume_geo (s : State) (n : Nat) :
    (s.rxConsume n).geo = s.geo := rfl

@[simp] theorem State.rxConsume_phase (s : State) (n : Nat) :
    (s.rxConsume n).phase = s.phase := rfl

@[simp] theorem State.rxConsume_cs (s : State) (n : Nat) :
    (s.rxConsume n).cs = s.cs := rfl

@[simp] theorem State.rxConsume_trace (s : State) (n : Nat) :
    (s.rxConsume n).trace = s.trace := rfl

@[simp] theorem State.rxConsume_rsp (s : State) (n : Nat) :
    (s.rxConsume n).rsp = s.rsp := rfl

@[simp] theorem State.rxConsume_cause (s : State) (n : Nat) :
    (s.rxConsume n).cause = s.cause := rfl

@[simp] theorem State.rxConsume_hostPort (s : State) (n : Nat) :
    (s.rxConsume n).hostPort = s.hostPort := rfl

@[simp] theorem State.rxConsume_wirePort (s : State) (n : Nat) :
    (s.rxConsume n).wirePort = s.wirePort := rfl

@[simp] theorem State.rxConsume_rxIn (s : State) (n : Nat) :
    (s.rxConsume n).rxIn = s.rxIn.drop n := rfl

@[simp] theorem State.rxConsume_rxFree (s : State) (n : Nat) :
    (s.rxConsume n).rxFree = s.rxFree + (n - s.rxIn.length) := rfl

/-! CONFIG's six writes (R131). -/

@[simp] theorem State.configure_params (s : State) (c : Capacity) :
    (s.configure c).params = s.params := rfl

@[simp] theorem State.configure_configured (s : State) (c : Capacity) :
    (s.configure c).configured = true := rfl

@[simp] theorem State.configure_binding (s : State) (c : Capacity) :
    (s.configure c).binding = allSlots := rfl

@[simp] theorem State.configure_geo (s : State) (c : Capacity) :
    (s.configure c).geo = geometryOf s.params c := rfl

@[simp] theorem State.configure_phase (s : State) (c : Capacity) :
    (s.configure c).phase = s.phase := rfl

@[simp] theorem State.configure_cs (s : State) (c : Capacity) :
    (s.configure c).cs = s.cs := rfl

@[simp] theorem State.configure_trace (s : State) (c : Capacity) :
    (s.configure c).trace = s.trace := rfl

@[simp] theorem State.configure_rsp (s : State) (c : Capacity) :
    (s.configure c).rsp = s.rsp := rfl

@[simp] theorem State.configure_cause (s : State) (c : Capacity) :
    (s.configure c).cause = s.cause := rfl

@[simp] theorem State.configure_hostPort (s : State) (c : Capacity) :
    (s.configure c).hostPort = s.hostPort := rfl

@[simp] theorem State.configure_wirePort (s : State) (c : Capacity) :
    (s.configure c).wirePort = s.wirePort := rfl

@[simp] theorem State.configure_rxIn (s : State) (c : Capacity) :
    (s.configure c).rxIn = s.rxIn := rfl

@[simp] theorem State.configure_rxFree (s : State) (c : Capacity) :
    (s.configure c).rxFree = s.rxFree := rfl

/-! Presenting a request writes the host port and the phase (R30). -/

@[simp] theorem State.takeRequest_params (s : State) (rest : List HostReq) :
    (s.takeRequest rest).params = s.params := rfl

@[simp] theorem State.takeRequest_configured (s : State) (rest : List HostReq) :
    (s.takeRequest rest).configured = s.configured := rfl

@[simp] theorem State.takeRequest_binding (s : State) (rest : List HostReq) :
    (s.takeRequest rest).binding = s.binding := rfl

@[simp] theorem State.takeRequest_geo (s : State) (rest : List HostReq) :
    (s.takeRequest rest).geo = s.geo := rfl

@[simp] theorem State.takeRequest_phase (s : State) (rest : List HostReq) :
    (s.takeRequest rest).phase = .run := rfl

@[simp] theorem State.takeRequest_cs (s : State) (rest : List HostReq) :
    (s.takeRequest rest).cs = s.cs := rfl

@[simp] theorem State.takeRequest_trace (s : State) (rest : List HostReq) :
    (s.takeRequest rest).trace = s.trace := rfl

@[simp] theorem State.takeRequest_rsp (s : State) (rest : List HostReq) :
    (s.takeRequest rest).rsp = s.rsp := rfl

@[simp] theorem State.takeRequest_cause (s : State) (rest : List HostReq) :
    (s.takeRequest rest).cause = s.cause := rfl

@[simp] theorem State.takeRequest_hostPort (s : State) (rest : List HostReq) :
    (s.takeRequest rest).hostPort = rest := rfl

@[simp] theorem State.takeRequest_wirePort (s : State) (rest : List HostReq) :
    (s.takeRequest rest).wirePort = s.wirePort := rfl

@[simp] theorem State.takeRequest_rxIn (s : State) (rest : List HostReq) :
    (s.takeRequest rest).rxIn = s.rxIn := rfl

@[simp] theorem State.takeRequest_rxFree (s : State) (rest : List HostReq) :
    (s.takeRequest rest).rxFree = s.rxFree := rfl

end Sys2Proof.Machine
end

