-- ==== Sys2Proof/Laws/Ops.lean ====
section
/-! SUPPORT. What each shared operation does, once: calls, frames, delays and answers as one update of the state. -/

namespace Sys2Proof.Machine

open Sys2Proof.Safety

/-- Calls in order append their events and leave chip-select at the last level set. -/
theorem State.calls_eq (s : State) (cs : List Call) :
    s.calls cs = { s with trace := s.trace ++ cs.flatMap Call.events, cs := cs.foldl Call.level s.cs } := by
  induction cs generalizing s with
  | nil => simp [State.calls]
  | cons c cs ih =>
    rw [show s.calls (c :: cs) = (s.call c).calls cs from rfl, ih]
    simp [List.append_assoc]

/-- The events of bytes sent one by one. -/
theorem flatMap_events_bytes (bs : List Byte) :
    (bs.map Call.spiWriteByte).flatMap Call.events = bs.map Event.tx := by
  induction bs with
  | nil => rfl
  | cons b bs ih => simp [ih, Call.events]

/-- Sending bytes leaves chip-select as it is. -/
theorem foldl_level_bytes (bs : List Byte) (l : Bool) :
    (bs.map Call.spiWriteByte).foldl Call.level l = l := by
  induction bs with
  | nil => rfl
  | cons b bs ih => simpa [Call.level] using ih

/-- A head-only frame: its events, chip-select deasserted, nothing else. -/
theorem State.sendHead_eq (s : State) (head : List Byte) :
    s.sendHead head = { s with trace := s.trace ++ frameEvents head, cs := false } := by
  simp [State.sendHead, State.calls_eq, openCalls, closeCalls, flatMap_events_bytes, frameEvents, Call.events,
    Call.level]

/-- A data frame: the head bytes and the data in order. -/
theorem State.sendData_eq (s : State) (head data : List Byte) :
    s.sendData head data = { s with trace := s.trace ++ frameEvents (head ++ data), cs := false } := by
  simp [State.sendData, State.calls_eq, openCalls, closeCalls, flatMap_events_bytes, frameEvents, Call.events,
    Call.level]

/-- A reading frame: the head bytes, then one `RX` with the oracle's answer, which is consumed. -/
theorem State.sendRead_eq (s : State) (head : List Byte) (n : Nat) :
    s.sendRead head n =
      (s.rxAnswer n,
        { s with
          trace := s.trace ++ frameEvents head [.rx (s.rxAnswer n)], cs := false
          rxIn := s.rxIn.drop n, rxFree := s.rxFree + (n - s.rxIn.length) }) := by
  simp [State.sendRead, State.calls_eq, openCalls, closeCalls, flatMap_events_bytes, frameEvents, Call.events,
    Call.level, State.rxConsume]

/-- An answer has the length that was asked for (R246: `spi_read` returns exactly `length` bytes). -/
@[simp] theorem State.rxAnswer_length (s : State) (n : Nat) : (s.rxAnswer n).length = n := by
  simp only [State.rxAnswer, List.length_append, List.length_take, List.length_map, List.length_range]
  omega

/-- The answer depends on the oracle's part of the state alone. -/
theorem State.rxAnswer_congr {s t : State} (h : s.rxIn = t.rxIn) (k : s.rxFree = t.rxFree) (n : Nat) :
    s.rxAnswer n = t.rxAnswer n := by
  simp [State.rxAnswer, h, k]

/-- One byte, then the rest from the oracle after it. -/
theorem State.rxAnswer_succ (s : State) (n : Nat) :
    s.rxAnswer (n + 1) = (s.rxAnswer 1).headD 0#8 :: (s.rxConsume 1).rxAnswer n := by
  rcases hb : s.rxIn with _ | ⟨b, bs⟩
  · have e : List.range (n + 1) = 0 :: (List.range n).map (· + 1) := by
      rw [List.range_succ_eq_map]
    simp [State.rxAnswer, hb, e, Function.comp_def, Nat.add_assoc, Nat.add_comm 1]
  · simp [State.rxAnswer, hb]

/-- Taking `m` and then `n` bytes is taking `m + n`. -/
theorem State.rxConsume_add (s : State) (m n : Nat) :
    (s.rxConsume m).rxConsume n = s.rxConsume (m + n) := by
  simp only [State.rxConsume, List.drop_drop, List.length_drop, State.mk.injEq, true_and]
  omega

/-- The write-enable or write-disable frame (R149). -/
theorem State.setWrenFrame_eq (s : State) (enable : Bool) :
    s.setWrenFrame enable =
      { s with
        trace := s.trace ++ frameEvents [if enable then s.params.cmdWriteEnable else s.params.cmdWriteDisable]
        cs := false } :=
  s.sendHead_eq _

/-- One status poll (R141): the masked byte, the four events, one byte of the oracle used. -/
theorem State.readStatusFrame_eq (s : State) :
    s.readStatusFrame =
      (statusMask s.params ((s.rxAnswer 1).headD 0#8),
        { s with
          trace := s.trace ++ frameEvents [s.params.cmdReadStatus1] [.rx (s.rxAnswer 1)], cs := false
          rxIn := s.rxIn.drop 1, rxFree := s.rxFree + (1 - s.rxIn.length) }) := by
  simp [State.readStatusFrame, State.sendRead_eq]

/-- The frames and delays of an accepted page write, as one update (R171). -/
theorem State.programPage_eq (s : State) (ab data : List Byte) (fastQuit : Bool) :
    s.programPage ab data fastQuit =
      { s with trace := s.trace ++ programEvents s.params ab data fastQuit, cs := false } := by
  cases fastQuit <;>
    simp [State.programPage, State.setWrenFrame_eq, State.sendData_eq, State.wait, State.call, Call.events, Call.level,
      programEvents]

/-- The guard lets a configured machine through. -/
@[simp] theorem guarded_of_configured {s : State} (h : s.configured = true) (k : Result) : guarded s k = k := by
  simp [guarded, h]

/-- The guard faults in an unconfigured machine (R238). -/
@[simp] theorem guarded_of_unconfigured {s : State} (h : s.configured = false) (k : Result) :
    guarded s k = .fault .notConfigured := by
  simp [guarded, h]

/-- A guarded operation that answers a next state is configured, and its body answers that state. -/
theorem guarded_next {s t : State} {k : Result} (h : guarded s k = .next t) : s.configured = true ∧ k = .next t := by
  cases hc : s.configured <;> simp [guarded, hc] at h
  exact ⟨rfl, h⟩

end Sys2Proof.Machine
end

