-- ==== Sys2Proof/Laws/Exec.lean ====
section
/-! SUPPORT. What each call can end in, once: WRITE_PAGE, the chunk loop, WAIT_READY, and what any instruction but CONFIG can change. -/

namespace Sys2Proof.Machine

open Sys2Proof.Safety

/-- The state after some frames and delays: events appended, chip-select deasserted if there were any, and `n` answer
bytes used. -/
def State.emitted (s : State) (es : List Event) (n : Nat) : State :=
  { s with
    trace := s.trace ++ es, cs := if es = [] then s.cs else false
    rxIn := s.rxIn.drop n, rxFree := s.rxFree + (n - s.rxIn.length) }

/-- Nothing emitted is no change. -/
@[simp] theorem State.emitted_nil (s : State) : s.emitted [] 0 = s := by
  simp [State.emitted]

/-- Emitting twice is emitting the concatenation. -/
theorem State.emitted_emitted (s : State) (es es' : List Event) (m n : Nat) :
    (s.emitted es m).emitted es' n = s.emitted (es ++ es') (m + n) := by
  simp only [State.emitted, List.drop_drop, List.length_drop, List.append_assoc, List.append_eq_nil_iff]
  have e : s.rxFree + (m - s.rxIn.length) + (n - (s.rxIn.length - m)) = s.rxFree + (m + n - s.rxIn.length) := by omega
  by_cases h : es = [] <;> by_cases h' : es' = [] <;> simp [h, h', e]

@[simp] theorem State.emitted_params (s : State) (es : List Event) (n : Nat) :
    (s.emitted es n).params = s.params := rfl

@[simp] theorem State.emitted_configured (s : State) (es : List Event) (n : Nat) :
    (s.emitted es n).configured = s.configured := rfl

@[simp] theorem State.emitted_geo (s : State) (es : List Event) (n : Nat) :
    (s.emitted es n).geo = s.geo := rfl

@[simp] theorem State.emitted_trace (s : State) (es : List Event) (n : Nat) :
    (s.emitted es n).trace = s.trace ++ es := rfl

/-- The answers after some bytes were used are the rest of the answers. -/
theorem State.rxAnswer_emitted (s : State) (es : List Event) (m n : Nat) :
    s.rxAnswer (m + n) = s.rxAnswer m ++ (s.emitted es m).rxAnswer n := by
  have g : (s.emitted es m).rxAnswer n = (s.rxConsume m).rxAnswer n := State.rxAnswer_congr rfl rfl n
  rw [g]
  induction m generalizing s with
  | zero => simp [State.rxAnswer, State.rxConsume]
  | succ m ih =>
    rw [Nat.add_right_comm, State.rxAnswer_succ, ih (s.rxConsume 1), State.rxAnswer_succ s m, State.rxConsume_add,
      Nat.add_comm 1 m]
    · rfl
    · exact State.rxAnswer_congr rfl rfl n

/-- A frame is never without events. -/
theorem frameEvents_ne_nil (head : List Byte) (body : List Event) : frameEvents head body ≠ [] := by
  simp [frameEvents]

/-- A head-only frame as emitted events. -/
theorem State.sendHead_emitted (s : State) (head : List Byte) :
    s.sendHead head = s.emitted (frameEvents head) 0 := by
  simp [State.sendHead_eq, State.emitted, frameEvents_ne_nil]

/-- A data frame as emitted events. -/
theorem State.sendData_emitted (s : State) (head data : List Byte) :
    s.sendData head data = s.emitted (frameEvents (head ++ data)) 0 := by
  simp [State.sendData_eq, State.emitted, frameEvents_ne_nil]

/-- A reading frame as emitted events. -/
theorem State.sendRead_emitted (s : State) (head : List Byte) (n : Nat) :
    s.sendRead head n = (s.rxAnswer n, s.emitted (frameEvents head [.rx (s.rxAnswer n)]) n) := by
  simp [State.sendRead_eq, State.emitted, frameEvents_ne_nil]

/-- A write-enable or write-disable frame as emitted events. -/
theorem State.setWrenFrame_emitted (s : State) (enable : Bool) :
    s.setWrenFrame enable =
      s.emitted (frameEvents [if enable then s.params.cmdWriteEnable else s.params.cmdWriteDisable]) 0 :=
  s.sendHead_emitted _

/-- An accepted page write as emitted events. -/
theorem State.programPage_emitted (s : State) (ab data : List Byte) (fastQuit : Bool) :
    s.programPage ab data fastQuit = s.emitted (programEvents s.params ab data fastQuit) 0 := by
  simp [State.programPage_eq, State.emitted, programEvents, frameEvents]

/-- One answer byte is a one-element list. -/
theorem State.rxAnswer_one (s : State) : s.rxAnswer 1 = [(s.rxAnswer 1).headD 0#8] := by
  have h := s.rxAnswer_length 1
  rcases hr : s.rxAnswer 1 with _ | ⟨b, _ | ⟨c, l⟩⟩ <;> simp_all

/-- A status poll as emitted events. -/
theorem State.readStatusFrame_emitted (s : State) :
    s.readStatusFrame =
      (statusMask s.params ((s.rxAnswer 1).headD 0#8),
        s.emitted (pollEvents s.params ((s.rxAnswer 1).headD 0#8)) 1) := by
  rw [pollEvents, ← State.rxAnswer_one]
  simp [State.readStatusFrame, State.sendRead_emitted]

/-- WRITE_PAGE, once: it ends in a refusal with no effect, or in an accepted write of `length` bytes (R171). -/
theorem writePageCall_next {a : Nat} {d : List Byte} {n : Nat} {fq : Bool} {s : State} {r : WriteDone}
    (h : writePageCall a d n fq s = .next r) :
    r = ⟨0, some .range, s⟩ ∨
    ∃ ab, a < s.geo.totalSize.toNat ∧ s.geo.pageSize.toNat ≠ 0 ∧
      pageOffset s.geo.pageSize.toNat a + n ≤ s.geo.pageSize.toNat ∧
      addressBytes s.geo.addressWidth (framedAddress s.geo.pageSize.toNat a n) = some ab ∧
      r = ⟨n, none, s.emitted (programEvents s.params ab (d.take n) fq) 0⟩ := by
  simp only [writePageCall] at h
  split at h
  · exact .inl (by simpa using h.symm)
  split at h
  · exact .inl (by simpa using h.symm)
  split at h
  · cases h
  split at h
  · exact .inl (by simpa using h.symm)
  split at h
  · cases h
  · rename_i ha _ hP hp _ ab hab
    refine .inr ⟨ab, by omega, hP, by omega, hab, ?_⟩
    rw [State.programPage_emitted] at h
    simpa using h.symm

/-- WRITE_PAGE accepted (R171, R174). -/
theorem writePageCall_accept {a : Nat} (d : List Byte) {n : Nat} (fq : Bool) {s : State} {ab : List Byte}
    (ha : a < s.geo.totalSize.toNat) (hP : s.geo.pageSize.toNat ≠ 0)
    (hp : pageOffset s.geo.pageSize.toNat a + n ≤ s.geo.pageSize.toNat)
    (hab : addressBytes s.geo.addressWidth (framedAddress s.geo.pageSize.toNat a n) = some ab) :
    writePageCall a d n fq s = .next ⟨n, none, s.emitted (programEvents s.params ab (d.take n) fq) 0⟩ := by
  have h1 : ¬ s.geo.totalSize.toNat ≤ a := by omega
  have h2 : ¬ s.geo.pageSize.toNat < n := by omega
  have h3 : ¬ s.geo.pageSize.toNat < pageOffset s.geo.pageSize.toNat a + n := by omega
  simp only [writePageCall, if_neg h1, if_neg h2, if_neg hP, if_neg h3, hab, State.programPage_emitted]

/-- WRITE_PAGE outside the device (R171, R172). -/
theorem writePageCall_beyond {a : Nat} (d : List Byte) (n : Nat) (fq : Bool) {s : State}
    (ha : s.geo.totalSize.toNat ≤ a) : writePageCall a d n fq s = .next ⟨0, some .range, s⟩ := by
  simp [writePageCall, ha]

/-- The chunk loop, once: what it leaves is the state it began with plus emitted events; it never reads the chip, its count
grows by at most `rem`, and every failure it records is a Range error (R186, R188). -/
theorem writeLoop_next {P : Nat} {d : List Byte} {fuel addr off rem total : Nat} {s : State} {r : WriteDone}
    (h : writeLoop P d fuel addr off rem total s = .next r) :
    (∃ es, r.state = s.emitted es 0) ∧ total ≤ r.count ∧ r.count ≤ total + rem ∧
      (r.cause = none ∨ r.cause = some .range) := by
  induction fuel generalizing addr off rem total s with
  | zero =>
    simp only [writeLoop, Host.Outcome.next.injEq] at h
    subst h
    exact ⟨⟨[], by simp⟩, by simp, by simp, .inl rfl⟩
  | succ fuel ih =>
    simp only [writeLoop] at h
    split at h
    · simp only [Host.Outcome.next.injEq] at h
      subst h
      exact ⟨⟨[], by simp⟩, by simp, by simp, .inl rfl⟩
    · split at h
      · rename_i hrem c hc
        rcases writePageCall_next hc with rfl | ⟨ab, -, -, -, -, rfl⟩
        · simp only [↓reduceIte, Host.Outcome.next.injEq] at h
          subst h
          exact ⟨⟨[], by simp⟩, by simp, by simp, .inr rfl⟩
        · split at h
          · simp only [Host.Outcome.next.injEq] at h
            subst h
            exact ⟨⟨_, rfl⟩, by simp, by simp, .inl rfl⟩
          · obtain ⟨⟨es, he⟩, h1, h2, h3⟩ := ih h
            refine ⟨⟨_, by rw [he, State.emitted_emitted]⟩, ?_, ?_, h3⟩ <;> simp only at * <;> omega
      · cases h
      · cases h

/-- WRITE's body, once (R186). -/
theorem writeCall_next {a : Nat} {d : List Byte} {n : Nat} {s : State} {r : WriteDone}
    (h : writeCall a d n s = .next r) :
    (∃ es, r.state = s.emitted es 0) ∧ r.count ≤ n ∧ (r.cause = none ∨ r.cause = some .range) := by
  simp only [writeCall] at h
  split at h
  · cases h
  split at h
  · rcases writePageCall_next h with rfl | ⟨ab, -, -, -, -, rfl⟩
    · exact ⟨⟨[], by simp⟩, by simp, .inr rfl⟩
    · exact ⟨⟨_, rfl⟩, by simp, .inl rfl⟩
  · obtain ⟨h1, -, h3, h4⟩ := writeLoop_next h
    exact ⟨h1, by omega, h4⟩

/-- WAIT_READY, once: some polls of which all but perhaps the last read busy, each busy one followed by a delay (R202). -/
theorem waitReady_cases (T : Nat) (s : State) :
    (∃ busy raw, busy.length < T ∧ s.rxAnswer (busy.length + 1) = busy ++ [raw] ∧
      (∀ b ∈ busy, rawBusy s.params b = true) ∧ rawBusy s.params raw = false ∧
      waitReady T s =
        (true, s.emitted (busyPolls s.params busy ++ pollEvents s.params raw) (busy.length + 1))) ∨
    ((∀ b ∈ s.rxAnswer T, rawBusy s.params b = true) ∧
      waitReady T s = (false, s.emitted (busyPolls s.params (s.rxAnswer T)) T)) := by
  induction T generalizing s with
  | zero => exact .inr ⟨by simp [State.rxAnswer], by simp [waitReady, State.rxAnswer, busyPolls]⟩
  | succ T ih =>
    have h1 := s.rxAnswer_one
    generalize hb : (s.rxAnswer 1).headD 0#8 = b at h1
    have hw : waitReady (T + 1) s =
        if rawBusy s.params b then
          waitReady T (s.emitted (pollEvents s.params b ++ [.delay s.params.tPoll]) 1)
        else (true, s.emitted (pollEvents s.params b) 1) := by
      have e : (s.emitted (pollEvents s.params b) 1).wait s.params.tPoll =
          s.emitted (pollEvents s.params b ++ [.delay s.params.tPoll]) 1 := by
        simp [State.wait, State.call, Call.events, Call.level, State.emitted, pollEvents, frameEvents]
      simp only [waitReady, State.readStatusFrame_emitted, hb, rawBusy, e]
      rfl
    rw [hw]
    cases hbusy : rawBusy s.params b
    · exact .inl ⟨[], b, by simp, by simpa using h1, by simp, hbusy, by simp [busyPolls]⟩
    · have hs : ∀ n, s.rxAnswer (n + 1) =
          b :: (s.emitted (pollEvents s.params b ++ [.delay s.params.tPoll]) 1).rxAnswer n := by
        intro n
        rw [Nat.add_comm, State.rxAnswer_emitted s (pollEvents s.params b ++ [.delay s.params.tPoll]) 1 n, h1]
        rfl
      rcases ih (s.emitted (pollEvents s.params b ++ [.delay s.params.tPoll]) 1) with
        ⟨busy, raw, hl, ha, hall, hraw, hr⟩ | ⟨hall, hr⟩
      · refine .inl ⟨b :: busy, raw, by simpa using hl, ?_, ?_, hraw, ?_⟩
        · simp only [List.length_cons, List.cons_append]
          rw [hs, ha]
        · intro c hc
          rcases List.mem_cons.1 hc with rfl | hc
          · exact hbusy
          · exact hall c hc
        · simp [hr, State.emitted_emitted, busyPolls, Nat.add_comm]
      · refine .inr ⟨?_, ?_⟩
        · rw [hs]
          intro c hc
          rcases List.mem_cons.1 hc with rfl | hc
          · exact hbusy
          · exact hall c hc
        · simp only [if_true, hr, State.emitted_emitted, hs T, State.emitted_params]
          simp [busyPolls, Nat.add_comm]

/-- The oracle does not see what was emitted without reading. -/
theorem State.rxAnswer_emitted_zero (s : State) (es : List Event) (n : Nat) :
    (s.emitted es 0).rxAnswer n = s.rxAnswer n :=
  State.rxAnswer_congr (by simp [State.emitted]) (by simp [State.emitted]) n

/-- Steps 3 and 4 of ERASE_SECTOR before the check: the write-enable frame, then one status frame. -/
theorem State.enableThenStatus (s : State) :
    (s.setWrenFrame true).readStatusFrame =
      (statusMask s.params ((s.rxAnswer 1).headD 0#8),
        s.emitted (frameEvents [s.params.cmdWriteEnable] ++ pollEvents s.params ((s.rxAnswer 1).headD 0#8)) 1) := by
  rw [State.setWrenFrame_emitted, State.readStatusFrame_emitted, State.rxAnswer_emitted_zero, State.emitted_emitted]
  rfl

/-- The latch check passed (R216 step 4). -/
theorem enableAndErase_latched {x : Nat} {s : State}
    (h : rawLatched s.params ((s.rxAnswer 1).headD 0#8) = true) :
    enableAndErase x s = eraseAndWait x
      (s.emitted (frameEvents [s.params.cmdWriteEnable] ++ pollEvents s.params ((s.rxAnswer 1).headD 0#8)) 1) := by
  simp only [enableAndErase, State.enableThenStatus]
  exact if_pos h

/-- The latch check failed (R216 step 4). -/
theorem enableAndErase_unlatched {x : Nat} {s : State}
    (h : rawLatched s.params ((s.rxAnswer 1).headD 0#8) = false) :
    enableAndErase x s =
      (s.emitted (frameEvents [s.params.cmdWriteEnable] ++
        pollEvents s.params ((s.rxAnswer 1).headD 0#8)) 1).reject .writeLatch := by
  simp only [enableAndErase, State.enableThenStatus]
  exact if_neg (by simpa [rawLatched] using h)

/-- The events of the erase frame (R115). -/
def eraseEvents (p : Params) (x : Nat) : List Event :=
  frameEvents (p.cmdSectorErase :: addressBytes24 (sectorAddress p x))

/-- The second wait ended ready (R216 step 6). -/
theorem eraseAndWait_ready {x n : Nat} {s : State} {es : List Event}
    (h : waitReady s.params.tErasePost (s.emitted (eraseEvents s.params x) 0) =
      (true, (s.emitted (eraseEvents s.params x) 0).emitted es n)) :
    eraseAndWait x s = (s.emitted (eraseEvents s.params x ++ es) n).respond 1#32 [] none := by
  rw [State.emitted_emitted, Nat.zero_add] at h
  simp only [eraseAndWait, State.eraseFrame, State.sendHead_emitted, ← eraseEvents.eq_def, h, if_true]

/-- The second wait timed out (R216 step 6). -/
theorem eraseAndWait_timeout {x n : Nat} {s : State} {es : List Event}
    (h : waitReady s.params.tErasePost (s.emitted (eraseEvents s.params x) 0) =
      (false, (s.emitted (eraseEvents s.params x) 0).emitted es n)) :
    eraseAndWait x s = (s.emitted (eraseEvents s.params x ++ es) n).reject (.timeout .afterErase) := by
  rw [State.emitted_emitted, Nat.zero_add] at h
  simp only [eraseAndWait, State.eraseFrame, State.sendHead_emitted, ← eraseEvents.eq_def, h]
  rfl

/-- ERASE_SECTOR after a passed range check whose first wait ended ready (R216 step 2). -/
theorem execEraseSector_ready {x : Word} {s t : State} (hc : s.configured = true)
    (hx : x.toNat < s.params.sectorCount) (h : waitReady s.params.tErasePre s = (true, t)) :
    execEraseSector x s = .next (enableAndErase x.toNat t) := by
  simp [execEraseSector, hc, Nat.not_le.2 hx, h]

/-- ERASE_SECTOR after a passed range check whose first wait timed out (R216 step 2). -/
theorem execEraseSector_timeout {x : Word} {s t : State} (hc : s.configured = true)
    (hx : x.toNat < s.params.sectorCount) (h : waitReady s.params.tErasePre s = (false, t)) :
    execEraseSector x s = .next (t.reject (.timeout .beforeErase)) := by
  simp [execEraseSector, hc, Nat.not_le.2 hx, h]

end Sys2Proof.Machine
end

