-- ==== Sys2Proof/Laws/PerInstr.lean ====
section
/-! SUPPORT. Statements for all instructions, one lemma per constructor. -/

namespace Sys2Proof.Laws.OpcodeField

open Sys2Proof

/-- The number that selects an instruction: the operation number of a request (R92), the first byte sent of a frame (R100). -/
def selector : Encoded → Option Nat
  | .request r => some r.op.toNat
  | .frame f => f.sent.head?.map BitVec.toNat

/-- The number the opcode tables give an instruction (R91, R101). -/
def opcode (p : Params) : Instr → Nat
  | .config _ _ => 0
  | .readStatus => 1
  | .readId => 2
  | .setWren _ => 3
  | .read _ _ => 4
  | .writePage _ _ _ _ => 5
  | .write _ _ _ => 6
  | .eraseSector _ => 7
  | .writeEnable => p.cmdWriteEnable.toNat
  | .writeDisable => p.cmdWriteDisable.toNat
  | .readStatus1 => p.cmdReadStatus1.toNat
  | .pageProgram _ _ => p.cmdPageProgram.toNat
  | .sectorErase4kb _ => p.cmdSectorErase.toNat
  | .dataRead _ _ => p.cmdDataRead.toNat
  | .jedecId => p.cmdJedecId.toNat

/-- Every encoding of the instruction carries its number, and a host operation's is a request. -/
def Statement (i : Instr) : Prop :=
  ∀ (p : Params) (w : Word) (e : Encoded), encode p w i = some e →
    selector e = some (opcode p i) ∧ (i.isHost = true ↔ ∃ r, e = .request r)

/-- An encoding that is one request carries that request's number. -/
theorem of_request {i : Instr} (r : HostReq) (h : ∀ p w, ∃ r', encode p w i = some (.request r') ∧ r'.op = r.op)
    (n : ∀ p, opcode p i = r.op.toNat) (k : i.isHost = true) : Statement i := by
  intro p w e he
  obtain ⟨r', h1, h2⟩ := h p w
  obtain rfl : Encoded.request r' = e := Option.some.inj (h1.symm.trans he)
  exact ⟨by simp [selector, h2, n], by simp [k]⟩

/-- An encoding that is one frame is told by its first byte. -/
theorem of_frame {i : Instr}
    (h : ∀ p w e, encode p w i = some e →
      ∃ f, e = .frame f ∧ f.sent.head?.map BitVec.toNat = some (opcode p i))
    (k : i.isHost = false) : Statement i := by
  intro p w e he
  obtain ⟨f, rfl, hf⟩ := h p w e he
  exact ⟨hf, by simp [k]⟩

theorem config (capacity : Word) (slots : BitVec 6) : Statement (.config capacity slots) :=
  of_request ⟨0, 0, 0, false, []⟩ (fun _ _ => ⟨_, rfl, rfl⟩) (fun _ => rfl) rfl

theorem readStatus : Statement .readStatus :=
  of_request ⟨1, 0, 0, false, []⟩ (fun _ _ => ⟨_, rfl, rfl⟩) (fun _ => rfl) rfl

theorem readId : Statement .readId :=
  of_request ⟨2, 0, 0, false, []⟩ (fun _ _ => ⟨_, rfl, rfl⟩) (fun _ => rfl) rfl

theorem setWren (enable : Bool) : Statement (.setWren enable) :=
  of_request ⟨3, 0, 0, false, []⟩ (fun _ _ => ⟨_, rfl, rfl⟩) (fun _ => rfl) rfl

theorem read (address length : Word) : Statement (.read address length) :=
  of_request ⟨4, 0, 0, false, []⟩ (fun _ _ => ⟨_, rfl, rfl⟩) (fun _ => rfl) rfl

theorem writePage (address : Word) (wdata : List Byte) (length : Word) (fastQuit : Bool) :
    Statement (.writePage address wdata length fastQuit) :=
  of_request ⟨5, 0, 0, false, []⟩ (fun _ _ => ⟨_, rfl, rfl⟩) (fun _ => rfl) rfl

theorem write (address : Word) (wdata : List Byte) (length : Word) : Statement (.write address wdata length) :=
  of_request ⟨6, 0, 0, false, []⟩ (fun _ _ => ⟨_, rfl, rfl⟩) (fun _ => rfl) rfl

theorem eraseSector (sector : Word) : Statement (.eraseSector sector) :=
  of_request ⟨7, 0, 0, false, []⟩ (fun _ _ => ⟨_, rfl, rfl⟩) (fun _ => rfl) rfl

theorem writeEnable : Statement .writeEnable :=
  of_frame (fun _ _ _ h => ⟨_, (Option.some.inj h).symm, rfl⟩) rfl

theorem writeDisable : Statement .writeDisable :=
  of_frame (fun _ _ _ h => ⟨_, (Option.some.inj h).symm, rfl⟩) rfl

theorem readStatus1 : Statement .readStatus1 :=
  of_frame (fun _ _ _ h => ⟨_, (Option.some.inj h).symm, rfl⟩) rfl

theorem pageProgram (address : Word) (data : List Byte) : Statement (.pageProgram address data) :=
  of_frame (fun _ _ _ h => by
    obtain ⟨ab, -, rfl⟩ := Option.map_eq_some_iff.1 h
    exact ⟨_, rfl, rfl⟩) rfl

theorem sectorErase4kb (address : Word) : Statement (.sectorErase4kb address) :=
  of_frame (fun _ _ _ h => ⟨_, (Option.some.inj h).symm, rfl⟩) rfl

theorem dataRead (address count : Word) : Statement (.dataRead address count) :=
  of_frame (fun _ _ _ h => by
    obtain ⟨ab, -, rfl⟩ := Option.map_eq_some_iff.1 h
    exact ⟨_, rfl, rfl⟩) rfl

theorem jedecId : Statement .jedecId :=
  of_frame (fun _ _ _ h => ⟨_, (Option.some.inj h).symm, rfl⟩) rfl

end Sys2Proof.Laws.OpcodeField
end

