-- ==== Sys2Proof/Laws/Step.lean ====
section
/-! SUPPORT. What a step can do, once: the inversion lemmas of ERASE_SECTOR, of CONFIG, of exec and of step. -/

namespace Sys2Proof.Machine

open Sys2Proof.Safety

/-- A write response comes from a completed call (R93). -/
theorem finishWrite_next {o : Host.Outcome WriteDone Fault Refusal} {t : State} (h : finishWrite o = .next t) :
    ∃ d, o = .next d ∧ t = d.state.respond (BitVec.ofNat 32 d.count) [] d.cause := by
  cases o <;> simp [finishWrite] at h
  exact ⟨_, rfl, h.symm⟩

/-- Steps 5 and 6 of ERASE_SECTOR emit events and respond (R216). -/
theorem eraseAndWait_emitted (x : Nat) (s : State) :
    ∃ es n ret c, eraseAndWait x s = (s.emitted es n).respond ret [] c := by
  rcases waitReady_cases s.params.tErasePost (s.emitted (eraseEvents s.params x) 0) with
    ⟨busy, raw, -, -, -, -, e⟩ | ⟨-, e⟩
  · exact ⟨_, _, _, _, eraseAndWait_ready e⟩
  · exact ⟨_, _, _, _, eraseAndWait_timeout e⟩

/-- Steps 3 to 6 of ERASE_SECTOR emit events and respond (R216). -/
theorem enableAndErase_emitted (x : Nat) (s : State) :
    ∃ es n ret c, enableAndErase x s = (s.emitted es n).respond ret [] c := by
  cases h : rawLatched s.params ((s.rxAnswer 1).headD 0#8)
  · exact ⟨_, _, _, _, enableAndErase_unlatched h⟩
  · obtain ⟨es, n, r, c, e⟩ := eraseAndWait_emitted x
      (s.emitted (frameEvents [s.params.cmdWriteEnable] ++ pollEvents s.params ((s.rxAnswer 1).headD 0#8)) 1)
    exact ⟨_, _, _, _, by rw [enableAndErase_latched h, e, State.emitted_emitted]⟩

/-- ERASE_SECTOR, once: events emitted, then a response without data (R216). -/
theorem execEraseSector_next {x : Word} {s t : State} (h : execEraseSector x s = .next t) :
    ∃ es n ret c, t = (s.emitted es n).respond ret [] c := by
  have hc := (guarded_next h).1
  by_cases hx : s.params.sectorCount ≤ x.toNat
  · simp only [execEraseSector, guarded_of_configured hc, if_pos hx, Host.Outcome.next.injEq] at h
    exact ⟨[], 0, _, _, by rw [State.emitted_nil]; exact h.symm⟩
  · rcases waitReady_cases s.params.tErasePre s with ⟨busy, raw, -, -, -, -, e⟩ | ⟨-, e⟩
    · rw [execEraseSector_ready hc (by omega) e] at h
      obtain ⟨es, n, r, c, e⟩ := enableAndErase_emitted x.toNat
        (s.emitted (busyPolls s.params busy ++ pollEvents s.params raw) (busy.length + 1))
      rw [e, State.emitted_emitted, Host.Outcome.next.injEq] at h
      exact ⟨_, _, _, _, h.symm⟩
    · rw [execEraseSector_timeout hc (by omega) e, Host.Outcome.next.injEq] at h
      exact ⟨_, _, _, _, h.symm⟩

/-- Everything an instruction can do, once: CONFIG as `execConfig_next` says; a wire command emits events and nothing
else; any other host operation emits events and responds (R90, R97). -/
theorem exec_next {i : Instr} {s t : State} (h : exec i s = .next t) :
    (∃ c sl, i = .config c sl ∧ execConfig c sl s = .next t) ∨
    (i.isHost = false ∧ ∃ es n, t = s.emitted es n) ∨
    (i.isHost = true ∧ i.isConfig = false ∧ ∃ es n r d c, t = (s.emitted es n).respond r d c) := by
  cases i with
  | config c sl => exact .inl ⟨_, _, rfl, h⟩
  | readStatus =>
    obtain ⟨_, h⟩ := guarded_next h
    simp only [State.readStatusFrame_emitted, Host.Outcome.next.injEq] at h
    exact .inr (.inr ⟨rfl, rfl, _, _, _, _, _, h.symm⟩)
  | readId =>
    obtain ⟨_, h⟩ := guarded_next h
    simp only [State.sendRead_emitted] at h
    split at h
    · simp only [Host.Outcome.next.injEq] at h
      exact .inr (.inr ⟨rfl, rfl, _, _, _, _, _, h.symm⟩)
    · cases h
  | setWren e =>
    obtain ⟨_, h⟩ := guarded_next h
    simp only [State.setWrenFrame_emitted, Host.Outcome.next.injEq] at h
    exact .inr (.inr ⟨rfl, rfl, _, _, _, _, _, h.symm⟩)
  | read a n =>
    obtain ⟨_, h⟩ := guarded_next h
    split at h
    · simp at h; exact .inr (.inr ⟨rfl, rfl, [], 0, _, _, _, by rw [State.emitted_nil]; exact h.symm⟩)
    · split at h
      · cases h
      · simp only [State.sendRead_emitted, Host.Outcome.next.injEq] at h
        exact .inr (.inr ⟨rfl, rfl, _, _, _, _, _, h.symm⟩)
  | writePage a d n f =>
    obtain ⟨_, h⟩ := guarded_next h
    split at h
    · obtain ⟨w, hw, rfl⟩ := finishWrite_next h
      rcases writePageCall_next hw with rfl | ⟨ab, -, -, -, -, rfl⟩
      · exact .inr (.inr ⟨rfl, rfl, [], 0, _, _, _, by rw [State.emitted_nil]⟩)
      · exact .inr (.inr ⟨rfl, rfl, _, _, _, _, _, rfl⟩)
    · cases h
  | write a d n =>
    obtain ⟨_, h⟩ := guarded_next h
    split at h
    · obtain ⟨w, hw, rfl⟩ := finishWrite_next h
      obtain ⟨⟨es, he⟩, -⟩ := writeCall_next hw
      exact .inr (.inr ⟨rfl, rfl, _, _, _, _, _, by rw [he]⟩)
    · cases h
  | eraseSector x =>
    obtain ⟨es, n, r, c, e⟩ := execEraseSector_next h
    exact .inr (.inr ⟨rfl, rfl, _, _, _, _, _, e⟩)
  | writeEnable =>
    obtain ⟨_, h⟩ := guarded_next h
    simp only [State.setWrenFrame_emitted, Host.Outcome.next.injEq] at h
    exact .inr (.inl ⟨rfl, _, _, h.symm⟩)
  | writeDisable =>
    obtain ⟨_, h⟩ := guarded_next h
    simp only [State.setWrenFrame_emitted, Host.Outcome.next.injEq] at h
    exact .inr (.inl ⟨rfl, _, _, h.symm⟩)
  | readStatus1 =>
    obtain ⟨_, h⟩ := guarded_next h
    simp only [State.readStatusFrame_emitted, Host.Outcome.next.injEq] at h
    exact .inr (.inl ⟨rfl, _, _, h.symm⟩)
  | pageProgram a d =>
    obtain ⟨_, h⟩ := guarded_next h
    split at h
    · cases h
    · simp only [State.sendData_emitted, Host.Outcome.next.injEq] at h
      exact .inr (.inl ⟨rfl, _, _, h.symm⟩)
  | sectorErase4kb a =>
    obtain ⟨_, h⟩ := guarded_next h
    simp only [State.sendHead_emitted, Host.Outcome.next.injEq] at h
    exact .inr (.inl ⟨rfl, _, _, h.symm⟩)
  | dataRead a n =>
    obtain ⟨_, h⟩ := guarded_next h
    split at h
    · cases h
    · simp only [State.sendRead_emitted, Host.Outcome.next.injEq] at h
      exact .inr (.inl ⟨rfl, _, _, h.symm⟩)
  | jedecId =>
    obtain ⟨_, h⟩ := guarded_next h
    simp only [State.sendRead_emitted, Host.Outcome.next.injEq] at h
    exact .inr (.inl ⟨rfl, _, _, h.symm⟩)

/-- CONFIG, once: a rejection that changes nothing else, or the six writes and the response 1 (R131). -/
theorem execConfig_next {c : Word} {sl : BitVec 6} {s t : State} (h : execConfig c sl s = .next t) :
    t = s.reject .configuration ∨
    ∃ cp, sl = allSlots ∧ capacityOf c = some cp ∧ t = (s.configure cp).respond 1#32 [] none := by
  simp only [execConfig] at h
  split at h
  · simp at h; exact .inl h.symm
  · split at h
    · simp at h; exact .inl h.symm
    · simp at h; rename_i h1 _ _ h2; exact .inr ⟨_, by simpa using h1, h2, h.symm⟩

/-- Everything a step can do, once: stay or end a frame-by-frame operation where there is nothing to run, or run the
instruction that the request or the frame at the port decodes to (R30, R90, R97; log 3, log 4). -/
theorem step_next {s t : State} (h : step s = .next t) :
    (s.phase = .idle ∧ s.hostPort = [] ∧ t = s) ∨
    (s.phase = .run ∧ s.wirePort = [] ∧ t = { s with phase := .idle }) ∨
    (∃ r rest i, s.phase = .idle ∧ s.hostPort = r :: rest ∧ decodeRequest r = .ok i ∧
      exec i (s.takeRequest rest) = .next t) ∨
    (∃ f rest i, s.phase = .run ∧ s.configured = true ∧ s.wirePort = f :: rest ∧
      decodeFrame s.params s.geo.addressWidth f = .ok i ∧ exec i { s with wirePort := rest } = .next t) := by
  cases hp : s.phase
  · cases hh : s.hostPort with
    | nil => simp [step, fetch, hp, fetchRequest, hh] at h; exact .inl ⟨rfl, rfl, h.symm⟩
    | cons r rest =>
      cases hd : decodeRequest r with
      | error e => simp [step, fetch, hp, fetchRequest, hh, hd, runDecoded] at h
      | ok i =>
        simp [step, fetch, hp, fetchRequest, hh, hd, runDecoded] at h
        exact .inr (.inr (.inl ⟨r, rest, i, rfl, rfl, hd, h⟩))
  · cases hh : s.wirePort with
    | nil => simp [step, fetch, hp, fetchFrame, hh] at h; exact .inr (.inl ⟨rfl, rfl, h.symm⟩)
    | cons r rest =>
      cases hc : s.configured
      · simp [step, fetch, hp, fetchFrame, hh, hc] at h
      cases hd : decodeFrame s.params s.geo.addressWidth r with
      | error e => simp [step, fetch, hp, fetchFrame, hh, hd, hc, runDecoded] at h
      | ok i =>
        simp [step, fetch, hp, fetchFrame, hh, hd, hc, runDecoded] at h
        refine .inr (.inr (.inr ⟨r, rest, i, rfl, rfl, rfl, hd, ?_⟩))
        rw [← h]

end Sys2Proof.Machine
end

