-- ==== Sys2Proof/Laws/Trace.lean ====
section
/-! SUPPORT. What the trace predicates say of frames and delays: the bus discipline and the items of appended events. -/

namespace Sys2Proof.Safety

open Sys2Proof.Machine

/-- The bus after appended events. -/
theorem busRun_append (p : Params) (pos : BusPos) (es es' : List Event) :
    busRun p pos (es ++ es') = (busRun p pos es).bind fun pos' => busRun p pos' es' := by
  induction es generalizing pos with
  | nil => rfl
  | cons e es ih =>
    simp only [List.cons_append, busRun]
    cases busStep p pos e with
    | none => rfl
    | some q => exact ih q

/-- Disciplined events after disciplined ones are disciplined. -/
theorem Disciplined.append {p : Params} {es es' : List Event} (h : Disciplined p es) (h' : Disciplined p es') :
    Disciplined p (es ++ es') := by
  rw [Disciplined, busRun_append, h]
  exact h'

/-- No events are disciplined. -/
theorem disciplined_nil (p : Params) : Disciplined p [] := rfl

/-- A delay is disciplined. -/
theorem disciplined_delay (p : Params) (t : Nat) : Disciplined p [.delay t] := rfl

/-- Bytes may follow bytes. -/
theorem busRun_sending (p : Params) (bs : List Byte) (es : List Event) :
    busRun p .sending (bs.map .tx ++ es) = busRun p .sending es := by
  induction bs with
  | nil => rfl
  | cons b bs ih => simpa [busRun, busStep] using ih

/-- A frame that begins with a command byte and only sends is disciplined (R100). -/
theorem disciplined_frame {p : Params} {cmd : Byte} (h : cmd ∈ p.commands) (rest : List Byte) :
    Disciplined p (frameEvents (cmd :: rest)) := by
  have e : frameEvents (cmd :: rest) = .cs true :: .tx cmd :: (rest.map .tx ++ [.cs false]) := by simp [frameEvents]
  rw [Disciplined, e]
  simp only [busRun, busStep, if_pos h]
  exact busRun_sending p rest _

/-- A frame that begins with a command byte and ends in one `RX` is disciplined (R100). -/
theorem disciplined_read {p : Params} {cmd : Byte} (h : cmd ∈ p.commands) (rest v : List Byte) :
    Disciplined p (frameEvents (cmd :: rest) [.rx v]) := by
  have e : frameEvents (cmd :: rest) [.rx v] = .cs true :: .tx cmd :: (rest.map .tx ++ [.rx v, .cs false]) := by
    simp [frameEvents]
  rw [Disciplined, e]
  simp only [busRun, busStep, if_pos h]
  exact busRun_sending p rest _

/-- A status poll is disciplined (R113). -/
theorem disciplined_poll (p : Params) (raw : Byte) : Disciplined p (pollEvents p raw) :=
  disciplined_read (by simp [Params.commands]) _ _

/-- The busy polls of a wait are disciplined (R201). -/
theorem disciplined_busyPolls (p : Params) (raws : List Byte) : Disciplined p (busyPolls p raws) := by
  induction raws with
  | nil => rfl
  | cons b bs ih =>
    simp only [busyPolls, List.flatMap_cons]
    exact ((disciplined_poll p b).append (disciplined_delay p _)).append ih

/-- An accepted page write is disciplined (R171). -/
theorem disciplined_program (p : Params) (ab data : List Byte) (fastQuit : Bool) :
    Disciplined p (programEvents p ab data fastQuit) := by
  refine (((disciplined_frame (by simp [Params.commands]) []).append (disciplined_delay p _)).append ?_).append ?_
  · exact disciplined_frame (by simp [Params.commands]) _
  · cases fastQuit
    · exact disciplined_delay p _
    · rfl

/-- The erase frame is disciplined (R115). -/
theorem disciplined_erase (p : Params) (x : Nat) : Disciplined p (eraseEvents p x) :=
  disciplined_frame (by simp [Params.commands]) _

/-- The items of a frame that is open and gets bytes. -/
theorem itemsFrom_bytes (f : FrameSeen) (bs : List Byte) (es : List Event) :
    itemsFrom (some f) (bs.map .tx ++ es) = itemsFrom (some { f with sent := f.sent ++ bs }) es := by
  induction bs generalizing f with
  | nil => simp
  | cons b bs ih =>
    have h := ih { f with sent := f.sent ++ [b] }
    simpa [itemsFrom] using h

/-- A sending frame is one item. -/
theorem items_frame (head : List Byte) (es : List Event) :
    items (frameEvents head ++ es) = .frame { sent := head, got := none } :: items es := by
  simp [items, frameEvents, itemsFrom, itemsFrom_bytes]

/-- A reading frame is one item. -/
theorem items_read (head v : List Byte) (es : List Event) :
    items (frameEvents head [.rx v] ++ es) = .frame { sent := head, got := some v } :: items es := by
  simp [items, frameEvents, itemsFrom, itemsFrom_bytes]

/-- A delay is one item. -/
theorem items_delay (t : Nat) (es : List Event) : items (.delay t :: es) = .delay t :: items es := rfl

/-- No events, no items. -/
@[simp] theorem items_nil : items [] = [] := rfl

/-- The item of a status poll. -/
theorem items_poll (p : Params) (raw : Byte) (es : List Event) :
    items (pollEvents p raw ++ es) = .frame { sent := [p.cmdReadStatus1], got := some [raw] } :: items es :=
  items_read _ _ es

/-- The items of an accepted page write. -/
theorem items_program (p : Params) (ab data : List Byte) (fastQuit : Bool) (es : List Event) :
    items (programEvents p ab data fastQuit ++ es) =
      [enableItem p, .delay p.tLatch, .frame { sent := p.cmdPageProgram :: ab ++ data, got := none }] ++
        (if fastQuit then [] else [.delay p.tProg]) ++ items es := by
  cases fastQuit <;>
    simp [programEvents, items_frame, items_delay, enableItem]

end Sys2Proof.Safety
end

