-- ==== Sys2Proof/Tests/Slice0.lean ====
section
/-! SUPPORT. The model's own tests: ill-formed terms refused, words written out from the spec decoded, vectors of
95_test_vectors.md run, and for every obligation with hypotheses a concrete case that meets them. -/

namespace Sys2Proof.Tests

open Sys2Proof.Machine Sys2Proof.Safety

/-! ## Small states -/

/-- Parameters with the open ones chosen as the vectors choose them and the small budgets of program 4. -/
def params : Params :=
  { sectorCount := 2048, tProg := 7, timeUnit := 1, tErasePre := 3, tErasePost := 2 }

/-- The state after reset with those parameters. -/
def fresh : State :=
  { State.reset with params := params }

/-- The "64Mb state" of the vectors. -/
def small : State :=
  { fresh with configured := true, binding := 0b111111#6, geo := ⟨256, 24, 32768, 0x800000⟩ }

/-- The "256Mb state". -/
def large : State :=
  { small with geo := ⟨256, 24, 131072, 0x2000000⟩ }

/-- The constructed 16-bit state of V-RD-16 and V-WP-15. -/
def narrow : State :=
  { small with geo := ⟨256, 16, 256, 0x10000⟩ }

/-- The 64Mb state with the oracle's script. -/
def scripted (answers : List Byte) : State :=
  { small with rxIn := answers }

/-- `ret`, `rdata` and the trace an outcome shows. -/
def seen : Result → Option (Nat × List Byte × List Event)
  | .next t => t.rsp.map fun r => (r.ret.toNat, r.rdata, t.trace)
  | .fault _ => none
  | .refused _ => none

/-- The trace an outcome shows. -/
def traceOf : Result → Option (List Event)
  | .next t => some t.trace
  | .fault _ => none
  | .refused _ => none

/-- The refusal an outcome shows. -/
def refusal : Result → Option Refusal
  | .next _ => none
  | .fault _ => none
  | .refused r => some r

/-- The decoded instruction. -/
def decoded : Except DecodeError Instr → Option Instr
  | .ok i => some i
  | .error _ => none

/-- `F{...}` of the vectors. -/
def F (bytes : List Byte) : List Event :=
  [.cs true] ++ bytes.map .tx ++ [.cs false]

/-- `F{... | n: ...}` of the vectors. -/
def FR (bytes answer : List Byte) : List Event :=
  [.cs true] ++ bytes.map .tx ++ [.rx answer, .cs false]

/-- `P[xx]` of the vectors. -/
def P (raw : Byte) : List Event :=
  FR [0x05] [raw]

/-- `D(t)` of the vectors. -/
def D (t : Nat) : List Event :=
  [.delay t]

/-! ## Ill-formed terms are refused -/

theorem test_wf_write_page_short_data : (Instr.writePage 0 [1, 2] 4 false).wellFormed 24 = false := by decide

theorem test_wf_write_short_data : (Instr.write 0 [] 1).wellFormed 24 = false := by decide

theorem test_wf_page_program_address_too_wide : (Instr.pageProgram 0x10000 [1]).wellFormed 16 = false := by decide

theorem test_wf_page_program_width : (Instr.pageProgram 0 [1]).wellFormed 32 = false := by decide

theorem test_wf_data_read_address_too_wide : (Instr.dataRead 0x1000000 1).wellFormed 24 = false := by decide

theorem test_wf_data_read_width : (Instr.dataRead 0 1).wellFormed 0 = false := by decide

theorem test_wf_sector_erase_address_too_wide : (Instr.sectorErase4kb 0x1000000).wellFormed 24 = false := by decide

theorem test_wf_accepts : (Instr.writePage 0 [1, 2] 2 true).wellFormed 24 = true ∧
    (Instr.pageProgram 0xFFFFFF []).wellFormed 24 = true := by decide

/-! ## Words written out from the spec's encodings (R91 to R94; R101 to R104) -/

theorem test_decode_config : decoded (decodeRequest ⟨0b0000, 2, 0x3F, false, []⟩) = some (.config 2 0b111111) := by decide

theorem test_decode_config_slots_masked :
    decoded (decodeRequest ⟨0b0000, 0, 0xFFFFFFEF, true, [9]⟩) = some (.config 0 0b101111) := by decide

theorem test_decode_read_status :
    decoded (decodeRequest ⟨0b0001, 0xDEADBEEF, 7, true, []⟩) = some .readStatus := by decide

theorem test_decode_read_id : decoded (decodeRequest ⟨0b0010, 0, 0, false, []⟩) = some .readId := by decide

theorem test_decode_set_wren : decoded (decodeRequest ⟨0b0011, 0xFFFFFFFE, 0, false, []⟩) = some (.setWren false) := by
  decide

theorem test_decode_read : decoded (decodeRequest ⟨0b0100, 0x400, 0x0A, false, []⟩) = some (.read 1024 10) := by decide

theorem test_decode_write_page :
    decoded (decodeRequest ⟨0b0101, 0x1000000, 1, true, [0x5A]⟩) = some (.writePage 0x1000000 [0x5A] 1 true) := by decide

theorem test_decode_write :
    decoded (decodeRequest ⟨0b0110, 0xFFFFFF, 2, true, [0xC3, 0x3C]⟩) = some (.write 0xFFFFFF [0xC3, 0x3C] 2) := by
  decide

theorem test_decode_erase_sector : decoded (decodeRequest ⟨0b0111, 0x1001, 5, true, []⟩) = some (.eraseSector 4097) := by
  decide

theorem test_decode_reserved : decoded (decodeRequest ⟨0b1000, 0, 0, false, []⟩) = none ∧
    decoded (decodeRequest ⟨0b1111, 0, 0, false, []⟩) = none := by decide

theorem test_decode_write_enable : decoded (decodeFrame params 24 ⟨[0b00000110], none⟩) = some .writeEnable := by decide

theorem test_decode_write_disable : decoded (decodeFrame params 24 ⟨[0b00000100], none⟩) = some .writeDisable := by decide

theorem test_decode_read_status_1 :
    decoded (decodeFrame params 24 ⟨[0b00000101], some 1⟩) = some .readStatus1 ∧
      decoded (decodeFrame params 24 ⟨[0b00000101], some 2⟩) = none := by decide

theorem test_decode_page_program :
    decoded (decodeFrame params 24 ⟨[0b00000010, 0x00, 0x01, 0x80, 0xA5], none⟩) = some (.pageProgram 0x180 [0xA5]) ∧
      decoded (decodeFrame params 16 ⟨[0b00000010, 0x12, 0x34, 0xA5], none⟩) = some (.pageProgram 0x1234 [0xA5]) := by
  decide

theorem test_decode_sector_erase :
    decoded (decodeFrame params 16 ⟨[0b00100000, 0x7F, 0xF0, 0x00], none⟩) = some (.sectorErase4kb 0x7FF000) ∧
      decoded (decodeFrame params 24 ⟨[0b00100000, 0x7F, 0xF0], none⟩) = none := by decide

theorem test_decode_data_read :
    decoded (decodeFrame params 24 ⟨[0b00000011, 0x12, 0x34, 0x56], some 0⟩) = some (.dataRead 0x123456 0) ∧
      decoded (decodeFrame params 16 ⟨[0b00000011, 0x12, 0x34], some 2⟩) = some (.dataRead 0x1234 2) := by decide

theorem test_decode_jedec_id : decoded (decodeFrame params 24 ⟨[0b10011111], some 4⟩) = some .jedecId := by decide

theorem test_decode_unknown_command : decoded (decodeFrame params 24 ⟨[0x0B, 0, 0, 0], some 1⟩) = none ∧
    decoded (decodeFrame params 24 ⟨[], none⟩) = none := by decide

theorem test_decode_table_words :
    decodeTableWord 8 0x5 = some (.writePage 0 [] 0 false) ∧
      decodeTableWord 8 0x20 = some (.sectorErase4kb 0) ∧ decodeTableWord 8 0x9F = some .jedecId := by decide

theorem test_encode_framing :
    encode params 24 (.dataRead 0x0ABCDE 3) = some (.frame ⟨[0x03, 0x0A, 0xBC, 0xDE], some 3⟩) ∧
      encode params 16 (.pageProgram 0x12345 [7]) = some (.frame ⟨[0x02, 0x23, 0x45, 7], none⟩) := by decide

/-! ## Vectors of 95_test_vectors.md, one step each -/

/-- V-CF-3. -/
theorem test_config_256 : traceOf (exec (.config 2 0x3F) fresh) = some [] ∧
    seen (exec (.config 2 0x3F) fresh) = some (1, [], []) := by decide

/-- V-CF-5. -/
theorem test_config_slot_missing : seen (exec (.config 0 0x2F) fresh) = some (0, [], []) := by decide

/-- V-ST-5. -/
theorem test_read_status_ff : seen (exec .readStatus (scripted [0xFF])) =
    some (3, [], [.cs true, .tx 0x05, .rx [0xFF], .cs false]) := by decide

/-- V-ST-9. -/
theorem test_read_status_7e : seen (exec .readStatus (scripted [0x7E, 0x01])) = some (2, [], P 0x7E) := by decide

/-- V-ID-1. -/
theorem test_read_id : seen (exec .readId (scripted [0xAA, 0xBB, 0xCC, 0xDD])) =
    some (0xAABBCC, [], FR [0x9F] [0xAA, 0xBB, 0xCC, 0xDD]) := by decide

/-- V-ID-2. -/
theorem test_read_id_fourth_byte_discarded : seen (exec .readId (scripted [0, 0, 0, 0xFF])) =
    some (0, [], FR [0x9F] [0, 0, 0, 0xFF]) := by decide

/-- V-WE-1. -/
theorem test_set_wren_on : seen (exec (.setWren true) small) = some (0, [], F [0x06]) := by decide

/-- V-WE-2. -/
theorem test_set_wren_off : seen (exec (.setWren false) small) = some (0, [], F [0x04]) := by decide

/-- V-RD-5 with the clamp to two bytes, `READ(0x7FFFFE, 32)`. -/
theorem test_read_clamps : seen (exec (.read 0x7FFFFE 32) (scripted [0x77, 0x88])) =
    some (2, [0x77, 0x88], FR [0x03, 0x7F, 0xFF, 0xFE] [0x77, 0x88]) := by decide

/-- V-RD-16. -/
theorem test_read_16_bit : seen (exec (.read 0x1234 2) { narrow with rxIn := [1, 2] }) =
    some (2, [1, 2], FR [0x03, 0x12, 0x34] [1, 2]) := by decide

/-- S2. -/
theorem test_write_page_s2 :
    seen (exec (.writePage 256 [0x50, 0x72, 0x6F, 0x62, 0x61, 0x6E, 0x64, 0x6F] 8 false) small) =
      some (8, [], F [0x06] ++ D 1 ++
        F [0x02, 0x00, 0x01, 0x00, 0x50, 0x72, 0x6F, 0x62, 0x61, 0x6E, 0x64, 0x6F] ++ D 7) := by decide

/-- V-WP-14 in small: with `page_size = 2`, `WRITE_PAGE(0x182, d, 2, true)` sends the low byte 0x82 as 00 (R175). -/
theorem test_write_page_low_byte_forced :
    seen (exec (.writePage 0x182 [0xA, 0xB] 2 true) { small with geo := ⟨2, 24, 4194304, 0x800000⟩ }) =
      some (2, [], F [0x06] ++ D 1 ++ F [0x02, 0x00, 0x01, 0x00, 0xA, 0xB]) := by decide

/-- V-WR-10. -/
theorem test_write_splits : seen (exec (.write 0x1FF [0xC3, 0x3C] 2) small) =
    some (2, [], F [0x06] ++ D 1 ++ F [0x02, 0x00, 0x01, 0xFF, 0xC3] ++ D 7 ++
      F [0x06] ++ D 1 ++ F [0x02, 0x00, 0x02, 0x00, 0x3C] ++ D 7) := by decide

/-- V-WR-6 in small: the range runs off the device after one byte. -/
theorem test_write_stops_at_device_end : seen (exec (.write 0x7FFFFF [0xC3, 0x3C] 2) small) =
    some (1, [], F [0x06] ++ D 1 ++ F [0x02, 0x7F, 0xFF, 0xFF, 0xC3] ++ D 7) := by decide

/-- V-ER-8. -/
theorem test_erase_sector : seen (exec (.eraseSector 3) (scripted [1, 1, 0, 2, 1, 0])) =
    some (1, [], P 1 ++ D 1 ++ P 1 ++ D 1 ++ P 0 ++ F [0x06] ++ P 2 ++ F [0x20, 0x00, 0x30, 0x00] ++ P 1 ++ D 1 ++ P 0) := by
  decide

/-- V-ER-5. -/
theorem test_erase_sector_latch : seen (exec (.eraseSector 3) (scripted [0, 0x1C])) =
    some (0, [], P 0 ++ F [0x06] ++ P 0x1C) := by decide

/-- R111, R112. -/
theorem test_wire_enable_disable : traceOf (exec .writeEnable small) = some (F [0x06]) ∧
    traceOf (exec .writeDisable small) = some (F [0x04]) := by decide

/-- R113, R117. -/
theorem test_wire_reads : traceOf (exec .readStatus1 (scripted [9])) = some (FR [0x05] [9]) ∧
    traceOf (exec .jedecId (scripted [1, 2, 3, 4])) = some (FR [0x9F] [1, 2, 3, 4]) := by decide

/-- R114, R103: V-WP-13's frame. -/
theorem test_wire_page_program : traceOf (exec (.pageProgram 0x1ABCDEF [1]) large) = some (F [0x02, 0xAB, 0xCD, 0xEF, 1]) := by
  decide

/-- R115, R108: three address bytes although the width is 16; V-ER-9's frame. -/
theorem test_wire_sector_erase : traceOf (exec (.sectorErase4kb 0x7FF000) narrow) = some (F [0x20, 0x7F, 0xF0, 0x00]) := by
  decide

/-- R116: V-RD-13's frame. -/
theorem test_wire_data_read : traceOf (exec (.dataRead 0x1000400 1) { large with rxIn := [5] }) =
    some (FR [0x03, 0x00, 0x04, 0x00] [5]) := by decide

/-- V-CF-13 and V-EN-1. -/
theorem test_step_stops : step { fresh with hostPort := [⟨4, 0, 1, false, []⟩] } = .fault .notConfigured ∧
    refusal (step { fresh with hostPort := [⟨8, 0, 0, false, []⟩] }) = some (.undecodable (.reservedOp 8)) :=
  ⟨rfl, by decide⟩

/-! ## Witnesses: for each obligation with hypotheses, a state and operands that meet all of them

Where an obligation has several clauses, one witness for each, at a boundary value. -/

theorem witness_params_ok : params.Ok ∧ params.Coherent := by decide

theorem witness_small_invariant : MachineInv small :=
  ⟨witness_params_ok.1, witness_params_ok.2, fun _ => rfl, fun _ => ⟨.mb64, by decide⟩, rfl, rfl⟩

theorem witness_StepRunsPresentedRequest :
    let s := { fresh with hostPort := [⟨0, 2, 0x3F, false, []⟩] }
    s.phase = .idle ∧ s.hostPort = ⟨0, 2, 0x3F, false, []⟩ :: [] ∧
      decodeRequest ⟨0, 2, 0x3F, false, []⟩ = .ok (.config 2 0x3F) := ⟨rfl, rfl, rfl⟩

theorem witness_StepRunsNextFrame :
    let s := { small with phase := .run, wirePort := [⟨[0x06], none⟩] }
    s.phase = .run ∧ s.configured = true ∧ s.wirePort = ⟨[0x06], none⟩ :: [] ∧
      decodeFrame s.params s.geo.addressWidth ⟨[0x06], none⟩ = .ok .writeEnable := ⟨rfl, rfl, rfl, rfl⟩

theorem witness_StepWithNothingToRun :
    (State.reset.phase = .idle ∧ State.reset.hostPort = []) ∧
      ({ small with phase := .run }.phase = .run ∧ { small with phase := .run }.wirePort = []) :=
  ⟨⟨rfl, rfl⟩, rfl, rfl⟩

theorem witness_RunningStepTakesNoRequest :
    let s := { small with phase := .run, hostPort := [⟨1, 0, 0, false, []⟩], wirePort := [⟨[0x06], none⟩] }
    s.phase = .run ∧ ∃ t, step s = .next t := ⟨rfl, _, rfl⟩

theorem witness_ReservedOperationRefused :
    let s := { fresh with hostPort := [⟨8, 0, 0, false, []⟩, ⟨15, 0, 0, false, []⟩] }
    8 ≤ (8 : BitVec 4).toNat ∧ 8 ≤ (15 : BitVec 4).toNat ∧ s.phase = .idle ∧
      s.hostPort = ⟨8, 0, 0, false, []⟩ :: [⟨15, 0, 0, false, []⟩] := by decide

theorem witness_DecodeOfEncodeIsInstruction :
    params.commands.Nodup ∧ (Instr.pageProgram 0xFFFFFF [1]).wellFormed 24 = true ∧
      (Instr.dataRead 0xFFFF 0xFFFFFFFF).wellFormed 16 = true := by decide

theorem witness_EncodeOfDecodedFrameIsFrame :
    decodeFrame params 24 ⟨[0x03, 0xFF, 0xFF, 0xFF], some 4294967295⟩ = .ok (.dataRead 0xFFFFFF 0xFFFFFFFF) := rfl

/-- For PlainWireCommandsSendOneFrame, ReadStatusReturnsMaskedByte, SetWrenSendsOneCommand and
EraseReturnsWithinBudget, whose one hypothesis it is. -/
theorem witness_configured : small.configured = true := rfl

theorem witness_AddressedWireCommandsSendOneFrame :
    small.configured = true ∧ addressBytes small.geo.addressWidth 0xABCDEF = some [0xAB, 0xCD, 0xEF] ∧
      narrow.configured = true ∧ addressBytes narrow.geo.addressWidth 0xFFFF = some [0xFF, 0xFF] := by decide

theorem witness_AddressFraming : (24 : Word) = 24 ∧ (16 : Word) = 16 ∧ (0 : Word) ≠ 24 ∧ (0 : Word) ≠ 16 := by decide

theorem witness_WireCommandSendsItsEncoding :
    small.configured = true ∧ (Instr.dataRead 0xFFFFFF 0).isHost = false ∧
      (Instr.dataRead 0xFFFFFF 0).wellFormed small.geo.addressWidth = true := by decide

theorem witness_OtherAddressWidthRefused :
    let s := { small with geo := ⟨256, 32, 32768, 0x800000⟩ }
    s.configured = true ∧ s.geo.addressWidth ≠ 24 ∧ s.geo.addressWidth ≠ 16 ∧
      (0x7FFFFF : Word).toNat < s.geo.totalSize.toNat ∧ s.geo.pageSize ≠ 0 ∧ (1 : Word).toNat ≤ [0xEE].length ∧
      (0x7FFFFF : Word).toNat % s.geo.pageSize.toNat + (1 : Word).toNat ≤ s.geo.pageSize.toNat := by decide

/-- The first two clauses of UndecodableFrameRefused: no command byte, and the command byte 0x0B. -/
theorem witness_UndecodableFrameRefused :
    let s := { small with phase := .run, wirePort := [⟨[], none⟩, ⟨[0x0B, 0], some 1⟩] }
    s.phase = .run ∧ s.configured = true ∧ s.wirePort = ⟨[], none⟩ :: [⟨[0x0B, 0], some 1⟩] ∧
      (0x0B : Byte) ∉ s.params.commands := by decide

/-- Its third clause: a status frame that reads two bytes encodes no instruction. -/
theorem witness_UndecodableFrameRefused_layout :
    (0x05 : Byte) ∈ small.params.commands ∧ legalWidth small.geo.addressWidth = true ∧
      ∀ i : Instr, i.isHost = false → i.wellFormed small.geo.addressWidth = true →
        encode small.params small.geo.addressWidth i ≠ some (.frame ⟨[0x05], some 2⟩) := by
  refine ⟨by decide, by decide, fun i h _ => ?_⟩
  cases i <;> simp_all [Instr.isHost, encode, frameWords, addressBytes, addressBytes24, small, fresh, params]

theorem witness_ConfigWritesAllOrNothing :
    (0b111111#6 = 0b111111#6 ∧ (2 : Word) = 2 ∧ 131072 = small.params.pageCount256) ∧
      0b111110#6 ≠ 0b111111#6 ∧ 3 ≤ (3 : Word).toNat ∧ 3 ≤ (0xFFFFFFFF : Word).toNat := by decide

theorem witness_ConfigGeometryTable :
    let s := { fresh with params := { sectorCount := 1, tProg := 2, timeUnit := 3 } }
    s.params = { sectorCount := 1, tProg := 2, timeUnit := 3 } ∧
      ((2, 131072, 33554432) : Word × Word × Word) ∈
        ([(0, 32768, 8388608), (1, 65536, 16777216), (2, 131072, 33554432)] : List (Word × Word × Word)) := by decide

theorem witness_SecondConfigReplacesFirst :
    (∃ t, exec (.config 0 0b111111#6) fresh = .next t) ∧ (2 : Word).toNat < 3 :=
  ⟨⟨_, rfl⟩, by decide⟩

theorem witness_FailedFirstConfigLeavesUnconfigured :
    fresh.configured = false ∧ (∃ t, exec (.config 3 0b111111#6) fresh = .next t ∧ t.rsp = some ⟨0, []⟩) ∧
      ((Instr.read 0 1).isHost = true ∧ (Instr.read 0 1).isConfig = false) ∧ (2 : Word).toNat < 3 :=
  ⟨rfl, ⟨_, rfl, rfl⟩, ⟨rfl, rfl⟩, by decide⟩

theorem witness_OnlyConfigWritesControlState :
    (∃ t, exec (.setWren true) small = .next t) ∧ (Instr.setWren true).isConfig = false := ⟨⟨_, rfl⟩, rfl⟩

theorem witness_ConfiguredIsNeverCleared :
    let s := { small with hostPort := [⟨0, 7, 0x3F, false, []⟩] }
    (∃ t, step s = .next t) ∧ s.configured = true := ⟨⟨_, rfl⟩, rfl⟩

theorem witness_UnconfiguredOperationFaults :
    (Instr.read 0 1).isHost = true ∧ (Instr.read 0 1).isConfig = false ∧ fresh.configured = false := by decide

theorem witness_FaultOnlyWhenUnconfigured : exec .readStatus fresh = .fault .notConfigured := rfl

theorem witness_UnconfiguredFrameFaults : Instr.jedecId.isHost = false ∧ fresh.configured = false := by decide

theorem witness_ReadStatusKeepsTwoBits :
    small.configured = true ∧ small.params.stBusy = 0x01 ∧ small.params.stWriteEnabled = 0x02 := by decide

theorem witness_ReadIdPacksFirstThreeBytes :
    small.configured = true ∧ 3 ≤ small.params.idReadLen ∧ 3 ≤ { params with idReadLen := 3 }.idReadLen := by decide

theorem witness_ReadChecksRangeThenReadsClamped :
    small.configured = true ∧ small.geo.totalSize.toNat ≤ (0x800000 : Word).toNat ∧
      (0x7FFFFF : Word).toNat < small.geo.totalSize.toNat ∧
      addressBytes small.geo.addressWidth (0x7FFFFF : Word).toNat = some [0x7F, 0xFF, 0xFF] := by decide

theorem witness_ReadCountIsClampedLength :
    (small.configured = true ∧ (0x7FFFFF : Word).toNat < small.geo.totalSize.toNat ∧
      legalWidth small.geo.addressWidth = true) ∧
      small.geo.totalSize.toNat < (0x7FFFFF : Word).toNat + (2 : Word).toNat ∧
      (0x7FFFFF : Word).toNat + (1 : Word).toNat ≤ small.geo.totalSize.toNat ∧ 1 ≤ (1 : Word).toNat := by decide

theorem witness_UpperHalfReadAliasesLower :
    large.configured = true ∧ large.geo.addressWidth = 24 ∧ 2 ^ 24 ≤ (0x1000000 : Word).toNat ∧
      (0x1000000 : Word).toNat + (0x1000000 : Word).toNat ≤ large.geo.totalSize.toNat ∧
      (0x1000000 : Word).toNat < large.geo.totalSize.toNat := by decide

/-- The clauses of WritePageChecksThenProgramsPage but the length clause, which the next theorem meets. -/
theorem witness_WritePageChecksThenProgramsPage :
    (small.configured = true ∧ small.geo.pageSize ≠ 0) ∧
      ((2 : Word).toNat ≤ [1, 2].length ∧ small.geo.totalSize.toNat ≤ (0x800000 : Word).toNat) ∧
      small.geo.pageSize.toNat < (0xFF : Word).toNat % small.geo.pageSize.toNat + (2 : Word).toNat ∧
      (1 : Word).toNat ≤ [0xEE].length ∧ (0x7FFFFF : Word).toNat < small.geo.totalSize.toNat ∧
      (0x7FFFFF : Word).toNat % small.geo.pageSize.toNat + (1 : Word).toNat ≤ small.geo.pageSize.toNat ∧
      addressBytes small.geo.addressWidth
        (if (1 : Word) = small.geo.pageSize then (0x7FFFFF : Word).toNat - (0x7FFFFF : Word).toNat % 256
          else (0x7FFFFF : Word).toNat) = some [0x7F, 0xFF, 0xFF] := by decide

theorem witness_WritePageChecksThenProgramsPage_long :
    let s := { small with geo := ⟨2, 24, 4194304, 0x800000⟩ }
    s.configured = true ∧ s.geo.pageSize ≠ 0 ∧ (3 : Word).toNat ≤ [1, 2, 3].length ∧
      s.geo.pageSize.toNat < (3 : Word).toNat := by decide

theorem witness_FullPageLowAddressByteIsZero :
    let s := { small with geo := ⟨2, 24, 4194304, 0x800000⟩ }
    s.configured = true ∧ legalWidth s.geo.addressWidth = true ∧ s.geo.pageSize.toNat ≤ [0xA, 0xB].length ∧
      (0x182 : Word).toNat < s.geo.totalSize.toNat ∧ s.geo.pageSize ≠ 0 ∧
      (0x182 : Word).toNat % s.geo.pageSize.toNat = 0 := by decide

theorem witness_AcceptedPageWriteInsideDevice :
    small.geo.totalSize.toNat = small.geo.pageCount.toNat * small.geo.pageSize.toNat ∧
      ∃ t, exec (.writePage 0x7FFFFF [0xEE] 1 true) small = .next t ∧ t.cause = none := ⟨by decide, _, rfl, rfl⟩

theorem witness_ShortWriteDataRefused :
    small.configured = true ∧ ([] : List Byte).length < (1 : Word).toNat := by decide

theorem witness_ZeroPageSizeRefused :
    let s := { small with geo := ⟨0, 24, 32768, 0x800000⟩ }
    s.configured = true ∧ s.geo.pageSize = 0 ∧ (0 : Word).toNat ≤ ([] : List Byte).length ∧
      (0 : Word).toNat < s.geo.totalSize.toNat ∧ (0 : Word) = 0 := by decide

theorem witness_OnePageWriteIsWritePage :
    small.geo.pageSize ≠ 0 ∧
      (0xF0 : Word).toNat % small.geo.pageSize.toNat + (16 : Word).toNat ≤ small.geo.pageSize.toNat := by decide

theorem witness_WriteSplitsAtPageBoundaries :
    (small.configured = true ∧ small.cs = false ∧ legalWidth small.geo.addressWidth = true ∧ small.geo.pageSize ≠ 0 ∧
      small.geo.totalSize.toNat = small.geo.pageCount.toNat * small.geo.pageSize.toNat) ∧
      1 ≤ (2 : Word).toNat ∧ (2 : Word).toNat ≤ [0xC3, 0x3C].length := by decide

theorem witness_ChunksTileTheRange : 0 < 256 ∧ 0 < 300 ∧
    chunks 256 0x1F0 300 = [(0x1F0, 16), (0x200, 256), (0x300, 28)] := by decide

theorem witness_WriteSendsReportedBytesInOrder :
    small.params.commands.Nodup ∧ ∃ t, exec (.write 0x7FFFFF [0xC3, 0x3C] 2) small = .next t := ⟨by decide, _, rfl⟩

theorem witness_PartialWriteIsReportedAndKept :
    (small.configured = true ∧ small.cs = false ∧ small.params.commands.Nodup ∧
      legalWidth small.geo.addressWidth = true ∧ small.geo.pageSize ≠ 0 ∧
      small.geo.totalSize.toNat = small.geo.pageCount.toNat * small.geo.pageSize.toNat) ∧
      (2 : Word).toNat ≤ [0xC3, 0x3C].length ∧
      small.geo.totalSize.toNat < (0x7FFFFF : Word).toNat + (2 : Word).toNat ∧
      small.geo.totalSize.toNat < (0x800000 : Word).toNat + (1 : Word).toNat ∧
      small.geo.totalSize.toNat ≤ (0x800000 : Word).toNat := by decide

theorem witness_WritesNeverReadTheChip :
    (∃ t, exec (.setWren true) small = .next t) ∧ (∃ t, exec (.writePage 0 [1] 1 false) small = .next t) ∧
      ∃ t, exec (.write 0x1FF [1, 2] 2) small = .next t := ⟨⟨_, rfl⟩, ⟨_, rfl⟩, _, rfl⟩

theorem witness_WaitReadyCountsPolls :
    let s := scripted [1, 1, 0]
    (s.cs = false ∧ [1, 1].length < 3 ∧ s.rxAnswer ([1, 1].length + 1) = [1, 1] ++ [0] ∧
      (∀ b ∈ ([1, 1] : List Byte), rawBusy s.params b = true) ∧ rawBusy s.params 0 = false) ∧
      (∀ b ∈ s.rxAnswer 2, rawBusy s.params b = true) ∧ ∀ b ∈ s.rxAnswer 0, rawBusy s.params b = true := by decide

theorem witness_EraseBeyondSectorCountRejected :
    small.configured = true ∧ small.params.sectorCount ≤ (2048 : Word).toNat := by decide

theorem witness_EraseFirstWaitTimesOut :
    let s := scripted [1, 1, 1]
    s.configured = true ∧ s.cs = false ∧ (2047 : Word).toNat < s.params.sectorCount ∧
      ∀ b ∈ s.rxAnswer s.params.tErasePre, rawBusy s.params b = true := by decide

theorem witness_EraseLatchCheckFails :
    let s := scripted [1, 1, 0, 0x1C]
    s.configured = true ∧ s.cs = false ∧ (2047 : Word).toNat < s.params.sectorCount ∧
      [1, 1].length < s.params.tErasePre ∧ s.rxAnswer ([1, 1].length + 2) = [1, 1] ++ [0, 0x1C] ∧
      (∀ b ∈ ([1, 1] : List Byte), rawBusy s.params b = true) ∧ rawBusy s.params 0 = false ∧
      rawLatched s.params 0x1C = false := by decide

theorem witness_EraseSecondWaitTimesOut :
    let s := scripted [1, 1, 0, 2, 1, 1]
    s.configured = true ∧ s.cs = false ∧ (2047 : Word).toNat < s.params.sectorCount ∧
      [1, 1].length < s.params.tErasePre ∧ [1, 1].length = s.params.tErasePost ∧
      s.rxAnswer ([1, 1].length + 2 + [1, 1].length) = [1, 1] ++ [0, 2] ++ [1, 1] ∧
      (∀ b ∈ ([1, 1] : List Byte), rawBusy s.params b = true) ∧ rawBusy s.params 0 = false ∧
      rawLatched s.params 2 = true := by decide

theorem witness_EraseSucceedsInOrder :
    let s := scripted [1, 1, 0, 2, 1, 0]
    s.configured = true ∧ s.cs = false ∧ (2047 : Word).toNat < s.params.sectorCount ∧
      [1, 1].length < s.params.tErasePre ∧ [1].length < s.params.tErasePost ∧
      s.rxAnswer ([1, 1].length + 2 + [1].length + 1) = [1, 1] ++ [0, 2] ++ [1] ++ [0] ∧
      (∀ b ∈ ([1, 1] : List Byte), rawBusy s.params b = true) ∧ (∀ b ∈ ([1] : List Byte), rawBusy s.params b = true) ∧
      rawBusy s.params 0 = false ∧ rawLatched s.params 2 = true := by decide

theorem witness_EraseIssuesStepsInOrder :
    (∃ t, exec (.eraseSector 2048) small = .next t) ∧ small.params.sectorCount ≤ (2048 : Word).toNat ∧
      (∃ t, exec (.eraseSector 2047) (scripted [0, 2, 0]) = .next t) ∧ (2047 : Word).toNat < small.params.sectorCount :=
  ⟨⟨_, rfl⟩, by decide, ⟨_, rfl⟩, by decide⟩

theorem witness_EraseReadsNoGeometry : ∃ t, exec (.eraseSector 3) (scripted [0, 2, 0]) = .next t := ⟨_, rfl⟩

theorem witness_StepKeepsInvariant :
    ∃ s, MachineInv s ∧ ∃ t, step s = .next t :=
  ⟨{ small with hostPort := [⟨3, 1, 0, false, []⟩] },
    ⟨witness_small_invariant.1, witness_small_invariant.2, witness_small_invariant.3, witness_small_invariant.4, rfl, rfl⟩,
    _, rfl⟩

theorem witness_TotalSizeIsPageCountTimesPageSize : MachineInv small ∧ small.configured = true :=
  ⟨witness_small_invariant, rfl⟩

theorem witness_InstructionAppendsWholeFrames : ∃ t, exec .jedecId (scripted [1, 2, 3, 4]) = .next t := ⟨_, rfl⟩

theorem witness_HostStepsKeepWriteGuards :
    ∃ s, MachineInv s ∧ s.phase = .idle ∧ WriteGuarded s.params s.trace ∧ ∃ t, step s = .next t :=
  ⟨{ small with hostPort := [⟨5, 0, 1, true, [0xA5]⟩] },
    ⟨witness_small_invariant.1, witness_small_invariant.2, witness_small_invariant.3, witness_small_invariant.4, rfl, rfl⟩,
    rfl, rfl, _, rfl⟩

theorem witness_HostOperationRespondsInIdle :
    (Instr.read 0 2).isHost = true ∧ ∃ t, exec (.read 0 2) (scripted [1, 2]) = .next t := ⟨rfl, _, rfl⟩

theorem witness_FailureReturnsLeaveControlState :
    (Instr.config 3 0x3F).isHost = true ∧ small.cs = false ∧
      (∃ t, exec (.config 3 0x3F) small = .next t ∧ t.cause = some .configuration) ∧
      (∃ t, exec (.write 0x7FFFFF [1, 2] 2) small = .next t ∧ t.cause = some .range) ∧
      (∃ t, exec (.eraseSector 3) (scripted [1, 1, 1]) = .next t ∧ t.cause = some (.timeout .beforeErase)) ∧
      ∃ t, exec (.eraseSector 3) (scripted [0, 0x1C]) = .next t ∧ t.cause = some .writeLatch :=
  ⟨rfl, rfl, ⟨_, rfl, rfl⟩, ⟨_, rfl, rfl⟩, ⟨_, rfl, rfl⟩, _, rfl, rfl⟩

theorem witness_NextStepExistsForEveryAnswer : ∃ t, exec (.eraseSector 3) (scripted [0, 2, 0]) = .next t := ⟨_, rfl⟩

end Sys2Proof.Tests
end

/-! The geometry registers after a successful CONFIG (R26). -/

namespace Sys2Proof.Proofs.ConfigGeometry

open Sys2Proof.Machine

/-- CONFIG with all six slots and a known capacity code succeeds (R131). -/
theorem exec_config_of_capacityOf {code : Word} {c : Capacity} (hc : capacityOf code = some c) (s : State) :
    exec (.config code allSlots) s = .next ((s.configure c).respond 1#32 [] none) := by
  simp [exec, execConfig, hc]

/-- The geometry that such a CONFIG leaves is `geometryOf` of the capacity it names. -/
theorem exec_config_geo {code : Word} {c : Capacity} (hc : capacityOf code = some c) (s : State) :
    ∃ t, exec (.config code allSlots) s = .next t ∧ t.geo = geometryOf s.params c :=
  ⟨_, exec_config_of_capacityOf hc s, by simp⟩

/-- With the default page size and address width the geometry depends on the page count alone. -/
theorem geometryOf_of_pageCount {p : Params} {c : Capacity} (count : Nat) (hsize : p.pageSize = 256)
    (hwidth : p.addrWidthCfg = 24) (hcount : p.pageCount c = count) :
    geometryOf p c = ⟨256, 24, BitVec.ofNat 32 count, BitVec.ofNat 32 (count * 256)⟩ := by
  simp [geometryOf, hsize, hwidth, hcount]

/-- Settles O18: each code of the table names its capacity, whose page count fixes the row that CONFIG stores. -/
theorem configGeometryTable : Obligations.ConfigGeometryTable := by
  intro s n t u hparams row hrow
  have hsize : s.params.pageSize = 256 := by rw [hparams]
  have hwidth : s.params.addrWidthCfg = 24 := by rw [hparams]
  simp only [List.mem_cons, List.not_mem_nil, or_false] at hrow
  obtain rfl | rfl | rfl := hrow
  · have hcount : s.params.pageCount .mb64 = 32768 := by rw [hparams]; rfl
    exact geometryOf_of_pageCount _ hsize hwidth hcount ▸ exec_config_geo rfl s
  · have hcount : s.params.pageCount .mb128 = 65536 := by rw [hparams]; rfl
    exact geometryOf_of_pageCount _ hsize hwidth hcount ▸ exec_config_geo rfl s
  · have hcount : s.params.pageCount .mb256 = 131072 := by rw [hparams]; rfl
    exact geometryOf_of_pageCount _ hsize hwidth hcount ▸ exec_config_geo rfl s

end Sys2Proof.Proofs.ConfigGeometry

/-! What instructions append to the trace: whole frames and the delays between them (R61, R100, R118). -/

namespace Sys2Proof.Proofs.WholeFrames

open Sys2Proof.Machine Sys2Proof.Safety

/-- `t` has the trace of `s` and then complete, disciplined frames and delays, under the same parameters: the relation
of a state to those after it, which is reflexive and transitive. -/
def AppendsFrames (s t : State) : Prop :=
  t.params = s.params ∧ ∃ es, t.trace = s.trace ++ es ∧ Disciplined s.params es

theorem AppendsFrames.refl (s : State) : AppendsFrames s s :=
  ⟨rfl, [], by simp, disciplined_nil _⟩

theorem AppendsFrames.trans {s t u : State} (h : AppendsFrames s t) (h' : AppendsFrames t u) : AppendsFrames s u := by
  obtain ⟨hp, es, he, hd⟩ := h
  obtain ⟨hp', es', he', hd'⟩ := h'
  exact ⟨hp'.trans hp, es ++ es', by rw [he', he, List.append_assoc], hd.append (hp ▸ hd')⟩

/-- A response appends nothing (R90). -/
theorem AppendsFrames.respond {s t : State} (h : AppendsFrames s t) (ret : Word) (rdata : List Byte)
    (cause : Option Failure) : AppendsFrames s (t.respond ret rdata cause) :=
  h

/-- A failure return appends nothing (R237). -/
theorem AppendsFrames.reject {s t : State} (h : AppendsFrames s t) (kind : Failure) : AppendsFrames s (t.reject kind) :=
  h

theorem appendsFrames_emitted {s : State} {es : List Event} (h : Disciplined s.params es) (n : Nat) :
    AppendsFrames s (s.emitted es n) :=
  ⟨rfl, es, rfl, h⟩

theorem appendsFrames_sendHead {s : State} {cmd : Byte} (h : cmd ∈ s.params.commands) (rest : List Byte) :
    AppendsFrames s (s.sendHead (cmd :: rest)) :=
  s.sendHead_emitted _ ▸ appendsFrames_emitted (disciplined_frame h rest) 0

theorem appendsFrames_sendData {s : State} {cmd : Byte} (h : cmd ∈ s.params.commands) (rest data : List Byte) :
    AppendsFrames s (s.sendData (cmd :: rest) data) :=
  s.sendData_emitted _ _ ▸ appendsFrames_emitted (disciplined_frame h (rest ++ data)) 0

theorem appendsFrames_sendRead {s : State} {cmd : Byte} (h : cmd ∈ s.params.commands) (rest : List Byte) (n : Nat) :
    AppendsFrames s (s.sendRead (cmd :: rest) n).2 :=
  s.sendRead_emitted _ _ ▸ appendsFrames_emitted (disciplined_read h rest _) n

theorem appendsFrames_setWrenFrame (s : State) (enable : Bool) : AppendsFrames s (s.setWrenFrame enable) :=
  appendsFrames_sendHead (by cases enable <;> simp [Params.commands]) []

theorem appendsFrames_readStatusFrame (s : State) : AppendsFrames s s.readStatusFrame.2 :=
  appendsFrames_sendRead (by simp [Params.commands]) [] 1

/-- A page write is refused with no event, or appends its frames and delays (R171). -/
theorem writePageCall_appendsFrames {a n : Nat} {d : List Byte} {fq : Bool} {s : State} {r : WriteDone}
    (h : writePageCall a d n fq s = .next r) : AppendsFrames s r.state := by
  rcases writePageCall_next h with rfl | ⟨ab, -, -, -, -, rfl⟩
  · exact .refl s
  · exact appendsFrames_emitted (disciplined_program _ _ _ _) 0

/-- The chunk loop appends the frames of its page writes (R186). -/
theorem writeLoop_appendsFrames {P fuel addr off rem total : Nat} {d : List Byte} {s : State} {r : WriteDone}
    (h : writeLoop P d fuel addr off rem total s = .next r) : AppendsFrames s r.state := by
  induction fuel generalizing addr off rem total s with
  | zero => cases h; exact .refl s
  | succ fuel ih =>
    simp only [writeLoop] at h
    split at h
    · cases h; exact .refl s
    · split at h
      next c hc =>
        have hchunk : AppendsFrames s c.state := writePageCall_appendsFrames hc
        split at h
        · cases h; exact hchunk
        · exact hchunk.trans (ih h)
      all_goals cases h

theorem writeCall_appendsFrames {a n : Nat} {d : List Byte} {s : State} {r : WriteDone}
    (h : writeCall a d n s = .next r) : AppendsFrames s r.state := by
  simp only [writeCall] at h
  split at h
  · cases h
  · split at h
    · exact writePageCall_appendsFrames h
    · exact writeLoop_appendsFrames h

/-- A wait appends its polls, each busy one with its delay (R201). -/
theorem waitReady_appendsFrames (T : Nat) (s : State) : AppendsFrames s (waitReady T s).2 := by
  rcases waitReady_cases T s with ⟨busy, raw, -, -, -, -, e⟩ | ⟨-, e⟩ <;> rw [e]
  · exact appendsFrames_emitted ((disciplined_busyPolls _ _).append (disciplined_poll _ _)) _
  · exact appendsFrames_emitted (disciplined_busyPolls _ _) _

/-- Steps 5 and 6 of ERASE_SECTOR append the erase frame and a wait (R216). -/
theorem eraseAndWait_appendsFrames (x : Nat) (s : State) : AppendsFrames s (eraseAndWait x s) := by
  have hframe : AppendsFrames s (s.eraseFrame x) := appendsFrames_sendHead (by simp [Params.commands]) _
  have hwait := hframe.trans (waitReady_appendsFrames s.params.tErasePost _)
  simp only [eraseAndWait]
  split
  · exact hwait.respond _ _ _
  · exact hwait.reject _

/-- Steps 3 to 6 of ERASE_SECTOR append the write-enable frame, a poll and what follows them (R216). -/
theorem enableAndErase_appendsFrames (x : Nat) (s : State) : AppendsFrames s (enableAndErase x s) := by
  have hlatch := (appendsFrames_setWrenFrame s true).trans (appendsFrames_readStatusFrame _)
  simp only [enableAndErase]
  split
  · exact hlatch.trans (eraseAndWait_appendsFrames x _)
  · exact hlatch.reject _

theorem execEraseSector_appendsFrames {x : Word} {s t : State} (h : execEraseSector x s = .next t) :
    AppendsFrames s t := by
  obtain ⟨-, h⟩ := guarded_next h
  have hwait := waitReady_appendsFrames s.params.tErasePre s
  split at h
  · cases h; exact (AppendsFrames.refl s).reject _
  · cases h
    split
    · exact hwait.trans (enableAndErase_appendsFrames _ _)
    · exact hwait.reject _

/-- CONFIG appends nothing, whether it fails or writes the control state (R131). -/
theorem execConfig_appendsFrames {c : Word} {slots : BitVec 6} {s t : State} (h : execConfig c slots s = .next t) :
    AppendsFrames s t := by
  rcases execConfig_next h with rfl | ⟨cp, -, -, rfl⟩
  · exact (AppendsFrames.refl s).reject _
  · have hconf : AppendsFrames s (s.configure cp) := ⟨by simp, [], by simp, disciplined_nil _⟩
    exact hconf.respond _ _ _

/-- A write operation appends what the call it wraps appends. -/
theorem finishWrite_appendsFrames {o : Host.Outcome WriteDone Fault Refusal} {s t : State}
    (ho : ∀ r, o = .next r → AppendsFrames s r.state) (h : finishWrite o = .next t) : AppendsFrames s t := by
  obtain ⟨r, hr, rfl⟩ := finishWrite_next h
  exact (ho r hr).respond _ _ _

/-- Every instruction keeps the parameters and appends whole frames and delays. -/
theorem exec_appendsFrames {i : Instr} {s t : State} (h : exec i s = .next t) : AppendsFrames s t := by
  cases i with
  | config c slots => exact execConfig_appendsFrames h
  | readStatus =>
    obtain ⟨-, h⟩ := guarded_next h
    cases h
    exact (appendsFrames_readStatusFrame s).respond _ _ _
  | readId =>
    obtain ⟨-, h⟩ := guarded_next h
    have hread := appendsFrames_sendRead (s := s) (cmd := s.params.cmdJedecId) (by simp [Params.commands]) []
      s.params.idReadLen
    split at h <;> cases h
    exact hread.respond _ _ _
  | setWren enable =>
    obtain ⟨-, h⟩ := guarded_next h
    cases h
    exact (appendsFrames_setWrenFrame s enable).respond _ _ _
  | read a n =>
    obtain ⟨-, h⟩ := guarded_next h
    split at h
    · cases h; exact (AppendsFrames.refl s).reject _
    · split at h <;> cases h
      exact (appendsFrames_sendRead (by simp [Params.commands]) _ _).respond _ _ _
  | writePage a d n fq =>
    obtain ⟨-, h⟩ := guarded_next h
    split at h
    · exact finishWrite_appendsFrames (fun _ => writePageCall_appendsFrames) h
    · cases h
  | write a d n =>
    obtain ⟨-, h⟩ := guarded_next h
    split at h
    · exact finishWrite_appendsFrames (fun _ => writeCall_appendsFrames) h
    · cases h
  | eraseSector x => exact execEraseSector_appendsFrames h
  | writeEnable =>
    obtain ⟨-, h⟩ := guarded_next h
    cases h
    exact appendsFrames_setWrenFrame s true
  | writeDisable =>
    obtain ⟨-, h⟩ := guarded_next h
    cases h
    exact appendsFrames_setWrenFrame s false
  | readStatus1 =>
    obtain ⟨-, h⟩ := guarded_next h
    cases h
    exact appendsFrames_readStatusFrame s
  | pageProgram a d =>
    obtain ⟨-, h⟩ := guarded_next h
    split at h <;> cases h
    exact appendsFrames_sendData (by simp [Params.commands]) _ _
  | sectorErase4kb a =>
    obtain ⟨-, h⟩ := guarded_next h
    cases h
    exact appendsFrames_sendHead (by simp [Params.commands]) _
  | dataRead a n =>
    obtain ⟨-, h⟩ := guarded_next h
    split at h <;> cases h
    exact appendsFrames_sendRead (by simp [Params.commands]) _ _
  | jedecId =>
    obtain ⟨-, h⟩ := guarded_next h
    cases h
    exact appendsFrames_sendRead (by simp [Params.commands]) _ _

/-- Settles O55: the trace's half of `exec_appendsFrames`, whose other half lets the frames of successive calls join. -/
theorem instructionAppendsWholeFrames : Obligations.InstructionAppendsWholeFrames :=
  fun _ _ _ h => (exec_appendsFrames h).2

end Sys2Proof.Proofs.WholeFrames

/-! What the two default masks leave of a status byte (R109). -/

namespace Sys2Proof.Proofs.StatusMask

open Sys2Proof.Machine

/-- In a configured machine READ_STATUS sends one poll and responds with its masked byte (R141). -/
theorem exec_readStatus_of_configured {s : State} (h : s.configured = true) :
    exec .readStatus s = .next (s.readStatusFrame.2.respond (s.readStatusFrame.1.zeroExtend 32) [] none) :=
  guarded_of_configured h _

/-- The default masks BUSY and WRITE_ENABLED are together the two low bits, so the masked byte is a remainder (R109). -/
theorem statusMask_toNat_of_default {p : Params} (hbusy : p.stBusy = 0x01) (henabled : p.stWriteEnabled = 0x02)
    (raw : Byte) : (statusMask p raw).toNat = raw.toNat % 4 := by
  have hmask : p.stBusy ||| p.stWriteEnabled = 3#8 := by rw [hbusy, henabled]; rfl
  rw [statusMask, hmask, BitVec.toNat_and]
  exact Nat.and_two_pow_sub_one_eq_mod raw.toNat 2

/-- Settles O27: the byte that the poll reads is masked to its remainder, which the response carries zero-extended. -/
theorem readStatusKeepsTwoBits : Obligations.ReadStatusKeepsTwoBits := by
  intro s hconf hbusy henabled
  refine ⟨_, _, s.rxAnswer_one, exec_readStatus_of_configured hconf, ?_⟩
  rw [State.respond_rsp, s.readStatusFrame_eq, ← statusMask_toNat_of_default hbusy henabled, BitVec.ofNat_toNat]

end Sys2Proof.Proofs.StatusMask

/-! CONFIG writes all of its state or none of it, and a failed first CONFIG leaves the machine unconfigured
(R131 to R136). -/

namespace Sys2Proof.Proofs.ConfigOutcome

open Sys2Proof.Machine Sys2Proof.Proofs.ConfigGeometry

/-- The codes 3 and up name no capacity, and only those (R94). -/
theorem capacityOf_eq_none_iff {code : Word} : capacityOf code = none ↔ 3 ≤ code.toNat := by
  simp only [capacityOf]
  split_ifs with h0 h1 h2
  · simp [h0]
  · simp [h1]
  · simp [h2]
  · simp only [true_iff]
    bv_omega

/-- The codes 0, 1 and 2 each name a capacity (R94). -/
theorem exists_capacityOf_of_lt {code : Word} (h : code.toNat < 3) : ∃ c, capacityOf code = some c :=
  Option.ne_none_iff_exists'.1 (mt capacityOf_eq_none_iff.1 (Nat.not_le.2 h))

/-- CONFIG with a slot missing or an unknown capacity code fails (R131). -/
theorem exec_config_reject {code : Word} {slots : BitVec 6} (h : slots ≠ allSlots ∨ capacityOf code = none)
    (s : State) : exec (.config code slots) s = .next (s.reject .configuration) := by
  simp only [exec, execConfig]
  split
  next => rfl
  next hslots => rw [h.resolve_left hslots]

/-- A CONFIG that responds 0 left the machine as configured as it was: success would have responded 1 (R132). -/
theorem exec_config_zero_configured {code : Word} {slots : BitVec 6} {s t : State}
    (h : exec (.config code slots) s = .next t) (hrsp : t.rsp = some ⟨0, []⟩) : t.configured = s.configured := by
  rcases execConfig_next h with rfl | ⟨c, -, -, rfl⟩
  · exact s.reject_configured _
  · simp at hrsp

/-- The guard of every host operation but CONFIG, at the level of the instruction (R236, R238). -/
theorem exec_host_of_unconfigured {i : Instr} {s : State} (hhost : i.isHost = true) (hconfig : i.isConfig = false)
    (hs : s.configured = false) : exec i s = .fault .notConfigured := by
  cases i with
  | config => cases hconfig
  | readStatus | readId | setWren | read | writePage | write | eraseSector => exact guarded_of_unconfigured hs _
  | writeEnable | writeDisable | readStatus1 | pageProgram | sectorErase4kb | dataRead | jedecId => cases hhost

/-- Settles O20: the failed CONFIG was a rejection, so the guard still faults, and a good CONFIG needs no earlier one. -/
theorem failedFirstConfigLeavesUnconfigured : Obligations.FailedFirstConfigLeavesUnconfigured := by
  intro s t code slots hs hexec hrsp
  have ht : t.configured = false := (exec_config_zero_configured hexec hrsp).trans hs
  refine ⟨ht, fun i hhost hconfig => exec_host_of_unconfigured hhost hconfig ht, fun d hd => ?_⟩
  obtain ⟨c, hc⟩ := exists_capacityOf_of_lt hd
  exact ⟨_, exec_config_of_capacityOf hc t, by simp, by simp⟩

/-- Settles O17: each of the three codes names the capacity whose page count is stored; all else is rejected. -/
theorem configWritesAllOrNothing : Obligations.ConfigWritesAllOrNothing := by
  intro s code slots
  refine ⟨fun pages hslots hcode => ?_, fun hbad => ?_⟩
  · subst hslots
    obtain ⟨rfl, rfl⟩ | ⟨rfl, rfl⟩ | ⟨rfl, rfl⟩ := hcode
    · exact exec_config_of_capacityOf (c := .mb64) rfl s
    · exact exec_config_of_capacityOf (c := .mb128) rfl s
    · exact exec_config_of_capacityOf (c := .mb256) rfl s
  · exact exec_config_reject (hbad.imp_right capacityOf_eq_none_iff.2) s

end Sys2Proof.Proofs.ConfigOutcome

/-! The status and identity operations as full next states: one frame each, and the response decoded from its answer
(R141, R145, R149). -/

namespace Sys2Proof.Proofs.StatusIdentity

open Sys2Proof.Machine Sys2Proof.Proofs.StatusMask

/-- Settles O26: the poll's one answer byte stands in the trace raw and reaches the response masked. -/
theorem readStatusReturnsMaskedByte : Obligations.ReadStatusReturnsMaskedByte := by
  intro s hconf
  refine ⟨_, s.rxAnswer_one, ?_⟩
  rw [exec_readStatus_of_configured hconf, s.readStatusFrame_emitted]
  rfl

/-- In a configured machine SET_WREN sends its frame and responds 0 (R149). -/
theorem exec_setWren_of_configured {s : State} (h : s.configured = true) (enable : Bool) :
    exec (.setWren enable) s = .next ((s.setWrenFrame enable).respond 0#32 [] none) :=
  guarded_of_configured h _

/-- Settles O29: the frame is a head of one command byte, so it uses no answer and leaves the oracle alone. -/
theorem setWrenSendsOneCommand : Obligations.SetWrenSendsOneCommand := by
  intro s enable hconf
  rw [exec_setWren_of_configured hconf, s.setWrenFrame_eq]
  rfl

/-- An answer of at least three bytes shows its first three (R110). -/
theorem exists_rxAnswer_first_three {n : Nat} (h : 3 ≤ n) (s : State) :
    ∃ b0 b1 b2 rest, s.rxAnswer n = b0 :: b1 :: b2 :: rest := by
  obtain ⟨k, rfl⟩ := Nat.exists_eq_add_of_le' h
  exact ⟨_, _, _, _, by rw [s.rxAnswer_succ, State.rxAnswer_succ _ (k + 1), State.rxAnswer_succ _ k]⟩

/-- In a configured machine READ_ID sends one identity frame and responds with the first three bytes read, packed, when
there are as many (R145). -/
theorem exec_readId_of_rxAnswer {s : State} {b0 b1 b2 : Byte} {rest : List Byte} (h : s.configured = true)
    (hrx : s.rxAnswer s.params.idReadLen = b0 :: b1 :: b2 :: rest) :
    exec .readId s =
      .next ((s.sendRead [s.params.cmdJedecId] s.params.idReadLen).2.respond (packIdentity b0 b1 b2) [] none) := by
  simp only [exec, execReadId, guarded_of_configured h, s.sendRead_eq, hrx]

/-- Two adjacent words are read as one number in base `2 ^ n`. -/
theorem toNat_append_eq_add {m n : Nat} (x : BitVec m) (y : BitVec n) :
    (x ++ y).toNat = x.toNat * 2 ^ n + y.toNat := by
  rw [BitVec.toNat_append, ← Nat.shiftLeft_add_eq_or_of_lt y.isLt, Nat.shiftLeft_eq]

/-- The packed identity is the three bytes side by side, so a number in base 256 (R110). -/
theorem packIdentity_eq_ofNat (b0 b1 b2 : Byte) :
    packIdentity b0 b1 b2 = BitVec.ofNat 32 (b0.toNat * 65536 + b1.toNat * 256 + b2.toNat) := by
  have happend : packIdentity b0 b1 b2 = (b0 ++ b1 ++ b2).setWidth 32 := by
    rw [BitVec.setWidth_append_append_eq_shiftLeft_setWidth_or]
    rfl
  have hvalue : (b0 ++ b1 ++ b2).toNat = b0.toNat * 65536 + b1.toNat * 256 + b2.toNat := by
    rw [toNat_append_eq_add, toNat_append_eq_add]
    omega
  rw [happend, ← hvalue, BitVec.ofNat_toNat]

/-- Settles O28: the oracle's answer has its first three bytes, which the response packs; the frame reads them all. -/
theorem readIdPacksFirstThreeBytes : Obligations.ReadIdPacksFirstThreeBytes := by
  intro s hconf hlen
  obtain ⟨b0, b1, b2, rest, hrx⟩ := exists_rxAnswer_first_three hlen s
  refine ⟨b0, b1, b2, rest, hrx, ?_⟩
  rw [exec_readId_of_rxAnswer hconf hrx, s.sendRead_eq, hrx, packIdentity_eq_ofNat]
  rfl

end Sys2Proof.Proofs.StatusIdentity

/-! READ as a next state: the range check, then one frame of the clamped length (R161, R162). -/

namespace Sys2Proof.Proofs.ReadClamp

open Sys2Proof.Machine

/-- In a configured machine READ at or beyond `total_size` is a rejection, with no transport call (R161). -/
theorem exec_read_beyond {s : State} {a : Word} (h : s.configured = true) (ha : s.geo.totalSize.toNat ≤ a.toNat)
    (n : Word) : exec (.read a n) s = .next (s.reject .range) := by
  simp only [exec, execRead, guarded_of_configured h, if_pos ha]

/-- In a configured machine READ inside the device sends one reading frame of the clamped length `k` and responds with
`k` and the answer (R161). -/
theorem exec_read_inside {s : State} {a n : Word} {ab : List Byte} {k : Nat} (h : s.configured = true)
    (ha : a.toNat < s.geo.totalSize.toNat) (hab : addressBytes s.geo.addressWidth a.toNat = some ab)
    (hk : clampedLength s.geo.totalSize.toNat a.toNat n.toNat = k) :
    exec (.read a n) s =
      .next ((s.sendRead (s.params.cmdDataRead :: ab) k).2.respond (BitVec.ofNat 32 k) (s.rxAnswer k) none) := by
  simp only [exec, execRead, guarded_of_configured h, if_neg (Nat.not_le.2 ha), hab, hk, s.sendRead_eq]

/-- A legal address width has a framing (R22). -/
theorem exists_addressBytes_of_legalWidth {w : Word} (h : legalWidth w = true) (a : Nat) :
    ∃ ab, addressBytes w a = some ab := by
  simp only [legalWidth, Bool.or_eq_true, beq_iff_eq] at h
  obtain rfl | rfl := h
  · exact ⟨_, rfl⟩
  · exact ⟨_, rfl⟩

/-- The clamped length is at most the length asked for, so it is not truncated in the response. -/
theorem toNat_ofNat_clampedLength (total address : Nat) (n : Word) :
    (BitVec.ofNat 32 (clampedLength total address n.toNat)).toNat = clampedLength total address n.toNat :=
  Nat.mod_eq_of_lt (Nat.lt_of_le_of_lt (Nat.min_le_left _ _) n.isLt)

/-- Settles O30: `total_size` decides between the rejection and the one reading frame. -/
theorem readChecksRangeThenReadsClamped : Obligations.ReadChecksRangeThenReadsClamped := by
  intro s a n hconf
  refine ⟨fun ha => exec_read_beyond hconf ha n, fun ab ha hab => ?_⟩
  intro k
  rw [exec_read_inside hconf ha hab (k := k) rfl, s.sendRead_eq]
  simp [State.respond, Safety.frameEvents]

/-- Settles O31: a legal width gives the frame, whose count is the clamped length; the rest is its arithmetic. -/
theorem readCountIsClampedLength : Obligations.ReadCountIsClampedLength := by
  intro s a n hconf ha hwidth
  obtain ⟨ab, hab⟩ := exists_addressBytes_of_legalWidth hwidth a.toNat
  refine ⟨_, _, exec_read_inside hconf ha hab rfl, rfl, rfl, ?_⟩
  rw [toNat_ofNat_clampedLength, s.rxAnswer_length]
  simp only [clampedLength, true_and]
  omega

end Sys2Proof.Proofs.ReadClamp

/-! WRITE_PAGE as a next state: three acceptance checks, then the frames of one page write (R171, R172). -/

namespace Sys2Proof.Proofs.WritePage

open Sys2Proof.Machine

/-- In a configured machine WRITE_PAGE with enough data is the page-write call and its response (R53, R171). -/
theorem exec_writePage_of_enoughData {s : State} {n : Word} {d : List Byte} (h : s.configured = true)
    (hd : n.toNat ≤ d.length) (a : Word) (fq : Bool) :
    exec (.writePage a d n fq) s = finishWrite (writePageCall a.toNat d n.toNat fq s) := by
  have henough : enoughData d n = true := decide_eq_true hd
  simp only [exec, execWritePage, guarded_of_configured h, henough, if_true]

/-- A page write that fails one of the three acceptance checks is refused with no effect (R171, R172). -/
theorem writePageCall_range {a n : Nat} {s : State} (hP : s.geo.pageSize.toNat ≠ 0)
    (h : s.geo.totalSize.toNat ≤ a ∨ s.geo.pageSize.toNat < n ∨
      s.geo.pageSize.toNat < pageOffset s.geo.pageSize.toNat a + n)
    (d : List Byte) (fq : Bool) : writePageCall a d n fq s = .next ⟨0, some .range, s⟩ := by
  simp only [writePageCall, if_neg hP]
  split_ifs with haddr hlen hcross
  · rfl
  · rfl
  · rfl
  · omega

/-- The low byte is forced exactly when the length and the page size are the same word (R106). -/
theorem framedAddress_toNat (P n : Word) (a : Nat) :
    framedAddress P.toNat a n.toNat = if n = P then a - a % 256 else a := by
  simp only [framedAddress, BitVec.toNat_inj]

/-- Settles O33: a failed check is a rejection of the call; past the checks the call emits the events of one page write,
which use no answer, and counts its whole length. -/
theorem writePageChecksThenProgramsPage : Obligations.WritePageChecksThenProgramsPage := by
  intro s a n d fq hconf hpage hd
  have hP : s.geo.pageSize.toNat ≠ 0 := mt (BitVec.toNat_inj (y := 0)).1 hpage
  refine ⟨fun hbad => ?_, fun ab ha hfit hab => ?_⟩
  · rw [exec_writePage_of_enoughData hconf hd, writePageCall_range hP hbad]
    rfl
  · rw [← framedAddress_toNat] at hab
    rw [exec_writePage_of_enoughData hconf hd, writePageCall_accept d fq ha hP hfit hab, ← State.programPage_emitted,
      State.programPage_eq]
    simp [finishWrite, State.respond, Safety.programEvents, Safety.frameEvents]

end Sys2Proof.Proofs.WritePage

/-! WRITE past the end of the device: it stops at `total_size`, and what it wrote before stands (R188, D7). -/

namespace Sys2Proof.Proofs.PartialWrite

open Sys2Proof.Machine Sys2Proof.Safety

/-- What a split write needs of the machine: a device of whole pages (R8, R23), a framing for its addresses (R22), and a
program command that is told apart from write-enable (R101). -/
structure SplitsIntoPages (s : State) : Prop where
  page : s.geo.pageSize.toNat ≠ 0
  whole : s.geo.pageSize.toNat ∣ s.geo.totalSize.toNat
  width : legalWidth s.geo.addressWidth = true
  commands : s.params.cmdWriteEnable ≠ s.params.cmdPageProgram

theorem SplitsIntoPages.emitted {s : State} (h : SplitsIntoPages s) (es : List Event) (n : Nat) :
    SplitsIntoPages (s.emitted es n) :=
  ⟨h.page, h.whole, h.width, h.commands⟩

/-- The room of a page is at least one byte (R51). -/
theorem pageRoom_pos {P : Nat} (hP : P ≠ 0) (a : Nat) : 0 < pageRoom P a :=
  Nat.sub_pos_of_lt (Nat.mod_lt a (Nat.pos_of_ne_zero hP))

/-- In a device of whole pages, the page of an address inside ends inside (R51, R23). -/
theorem add_pageRoom_le {P a T : Nat} (hT : P ∣ T) (ha : a < T) : a + pageRoom P a ≤ T := by
  obtain ⟨k, rfl⟩ := hT
  have hq : a / P + 1 ≤ k := Nat.div_lt_of_lt_mul ha
  have hend : P * (a / P + 1) ≤ P * k := Nat.mul_le_mul_left P hq
  have hsplit : P * (a / P) + a % P = a := Nat.div_add_mod a P
  rw [Nat.mul_add_one] at hend
  simp only [pageRoom, pageOffset]
  omega

/-- The framed address has as many bytes as the width says (R104). -/
theorem length_of_addressBytes {w : Word} {a : Nat} {ab : List Byte} (h : addressBytes w a = some ab) :
    ab.length = w.toNat / 8 := by
  simp only [addressBytes] at h
  split_ifs at h with h24 h16 <;> cases h
  · simp [h24, addressBytes24]
  · simp [h16, addressBytes16]

/-- Of the items of a page write only the program frame carries data: its bytes after the command and the address
(R103, R171). -/
theorem programmed_programEvents_append {p : Params} {w : Word} {ab : List Byte}
    (hcmd : p.cmdWriteEnable ≠ p.cmdPageProgram) (hab : ab.length = w.toNat / 8) (data : List Byte) (fq : Bool)
    (es : List Event) : programmed p w (programEvents p ab data fq ++ es) = data ++ programmed p w es := by
  have hframe : programData p w (.frame { sent := p.cmdPageProgram :: ab ++ data, got := none }) = data := by
    simp [programData, Nat.add_comm 1, ← hab]
  have henable : programData p w (enableItem p) = [] := by simp [programData, enableItem, hcmd]
  have hdelay : ∀ t, programData p w (.delay t) = [] := fun _ => rfl
  rw [programmed, items_program]
  cases fq <;> simp only [List.flatMap_append, List.flatMap_cons, List.flatMap_nil, henable, hframe, hdelay, programmed,
    if_true, if_false, Bool.false_eq_true, List.nil_append, List.append_nil]

/-- A write of `data` at `a`, `total` bytes written before it, that ends at the device's end: it counts and sends the
bytes up to there and no others, records a Range error, and emits nothing when it starts at the end or beyond (R188). -/
def StopsAtDeviceEnd (s : State) (total a : Nat) (data : List Byte) (o : Host.Outcome WriteDone Fault Refusal) : Prop :=
  ∃ es, o = .next ⟨total + (s.geo.totalSize.toNat - a), some .range, s.emitted es 0⟩ ∧
    programmed s.params s.geo.addressWidth es = data.take (s.geo.totalSize.toNat - a) ∧
    (s.geo.totalSize.toNat ≤ a → es = [])

/-- A refusal at or beyond the end stops there. -/
theorem stopsAtDeviceEnd_beyond {s : State} {a : Nat} (ha : s.geo.totalSize.toNat ≤ a) (total : Nat)
    (data : List Byte) : StopsAtDeviceEnd s total a data (.next ⟨total, some .range, s⟩) :=
  ⟨[], by simp [Nat.sub_eq_zero_of_le ha], by simp [Nat.sub_eq_zero_of_le ha, programmed], fun _ => rfl⟩

/-- A page write inside the device, followed by a write that stops at the device's end, stops there as a whole. -/
theorem StopsAtDeviceEnd.after_page {s : State} {total a k : Nat} {data ab : List Byte}
    {o : Host.Outcome WriteDone Fault Refusal} (hcmd : s.params.cmdWriteEnable ≠ s.params.cmdPageProgram)
    (hab : ab.length = s.geo.addressWidth.toNat / 8) (ha : a < s.geo.totalSize.toNat)
    (hk : a + k ≤ s.geo.totalSize.toNat)
    (h : StopsAtDeviceEnd (s.emitted (programEvents s.params ab (data.take k) false) 0) (total + k) (a + k)
      (data.drop k) o) :
    StopsAtDeviceEnd s total a data o := by
  obtain ⟨es, ho, hdata, -⟩ := h
  simp only [State.emitted_geo, State.emitted_params, State.emitted_emitted] at ho hdata
  have hsplit : s.geo.totalSize.toNat - a = k + (s.geo.totalSize.toNat - (a + k)) := by omega
  refine ⟨programEvents s.params ab (data.take k) false ++ es, ?_, ?_, fun hbeyond => ?_⟩
  · rw [ho, hsplit, Nat.add_assoc]
  · rw [programmed_programEvents_append hcmd hab, hdata, hsplit, List.take_add]
  · omega

/-- A pass of the chunk loop at or beyond the device's end ends it (R186, R188). -/
theorem writeLoop_succ_beyond {s : State} {addr rem : Nat} (ha : s.geo.totalSize.toNat ≤ addr) (hrem : rem ≠ 0)
    (P : Nat) (d : List Byte) (fuel off total : Nat) :
    writeLoop P d (fuel + 1) addr off rem total s = .next ⟨total, some .range, s⟩ := by
  simp only [writeLoop, if_neg hrem, writePageCall_beyond _ _ _ ha, if_true]

/-- A pass of the chunk loop whose range runs on past its page fills the page and goes on behind it (R186). -/
theorem writeLoop_succ_inside {s : State} {addr rem : Nat} {ab : List Byte} (hP : s.geo.pageSize.toNat ≠ 0)
    (ha : addr < s.geo.totalSize.toNat) {k : Nat} (hk : pageRoom s.geo.pageSize.toNat addr = k) (hrem : k ≤ rem)
    (hab : addressBytes s.geo.addressWidth (framedAddress s.geo.pageSize.toNat addr k) = some ab)
    (d : List Byte) (fuel off total : Nat) :
    writeLoop s.geo.pageSize.toNat d (fuel + 1) addr off rem total s =
      writeLoop s.geo.pageSize.toNat d fuel (addr + k) (off + k) (rem - k) (total + k)
        (s.emitted (programEvents s.params ab ((d.drop off).take k) false) 0) := by
  have hpos : k ≠ 0 := hk ▸ Nat.ne_of_gt (pageRoom_pos hP addr)
  have hfit : pageOffset s.geo.pageSize.toNat addr + k ≤ s.geo.pageSize.toNat := by
    simp only [pageRoom] at hk
    omega
  have hrem' : rem ≠ 0 := by omega
  simp only [writeLoop, if_neg hrem', hk, Nat.min_eq_left hrem, writePageCall_accept _ _ ha hP hfit hab, if_neg hpos,
    List.take_take, Nat.min_self]

/-- The chunk loop over a range that runs past the device's end stops there: its chunks inside are whole rests of pages,
so one of them ends exactly at the end (R188). -/
theorem writeLoop_stopsAtDeviceEnd {s : State} (h : SplitsIntoPages s) {fuel addr rem : Nat} (hfuel : rem ≤ fuel)
    (hrem : rem ≠ 0) (hover : s.geo.totalSize.toNat < addr + rem) (d : List Byte) (off total : Nat) :
    StopsAtDeviceEnd s total addr (d.drop off) (writeLoop s.geo.pageSize.toNat d fuel addr off rem total s) := by
  induction fuel generalizing s addr off rem total with
  | zero => omega
  | succ fuel ih =>
    by_cases ha : s.geo.totalSize.toNat ≤ addr
    · rw [writeLoop_succ_beyond ha hrem]
      exact stopsAtDeviceEnd_beyond ha total _
    · generalize hk : pageRoom s.geo.pageSize.toNat addr = k
      have hlt : addr < s.geo.totalSize.toNat := Nat.lt_of_not_le ha
      have hpos : 0 < k := hk ▸ pageRoom_pos h.page addr
      have hend : addr + k ≤ s.geo.totalSize.toNat := hk ▸ add_pageRoom_le h.whole hlt
      obtain ⟨ab, hab⟩ :=
        ReadClamp.exists_addressBytes_of_legalWidth h.width (framedAddress s.geo.pageSize.toNat addr k)
      rw [writeLoop_succ_inside h.page hlt hk (by omega) hab]
      refine .after_page h.commands (length_of_addressBytes hab) hlt hend ?_
      rw [List.drop_drop]
      exact ih (h.emitted _ _) (by omega) (by omega) (by simp only [State.emitted_geo]; omega) _ _

/-- A WRITE that runs past the device's end stops there. The one-page path runs past it only from beyond, since a page
that begins inside ends inside (R186, R188). -/
theorem writeCall_stopsAtDeviceEnd {s : State} (h : SplitsIntoPages s) {a n : Nat}
    (hover : s.geo.totalSize.toNat < a + n) (d : List Byte) : StopsAtDeviceEnd s 0 a d (writeCall a d n s) := by
  simp only [writeCall, if_neg h.page]
  split
  next hpage =>
    have ha : s.geo.totalSize.toNat ≤ a := by
      by_contra hlt
      have hend := add_pageRoom_le h.whole (Nat.lt_of_not_le hlt)
      simp only [pageRoom] at hend
      omega
    rw [writePageCall_beyond d n false ha]
    exact stopsAtDeviceEnd_beyond ha 0 d
  next hpages =>
    have hn : n ≠ 0 := by
      rintro rfl
      exact hpages (Nat.mod_lt a (Nat.pos_of_ne_zero h.page)).le
    exact writeLoop_stopsAtDeviceEnd h le_rfl hn hover d 0 0

/-- In a configured machine WRITE with enough data is the write call and its response (R53, R186). -/
theorem exec_write_of_enoughData {s : State} {n : Word} {d : List Byte} (h : s.configured = true)
    (hd : n.toNat ≤ d.length) (a : Word) :
    exec (.write a d n) s = finishWrite (writeCall a.toNat d n.toNat s) := by
  have henough : enoughData d n = true := decide_eq_true hd
  simp only [exec, execWrite, guarded_of_configured h, henough, if_true]

/-- Settles O42: the premises make the device one of whole pages, so the call stops at its end; the response adds its
count and keeps its trace. -/
theorem partialWriteIsReportedAndKept : Obligations.PartialWriteIsReportedAndKept := by
  intro s a n d hconf _ hnodup hwidth hpage htotal hd hover
  simp only [Params.commands, List.nodup_cons, List.mem_cons, not_or] at hnodup
  obtain ⟨⟨-, -, hcmd, -⟩, -⟩ := hnodup
  have hP : s.geo.pageSize.toNat ≠ 0 := mt (BitVec.toNat_inj (y := 0)).1 hpage
  obtain ⟨es, hcall, hdata, hsilent⟩ :=
    writeCall_stopsAtDeviceEnd ⟨hP, Dvd.intro_left _ htotal.symm, hwidth, hcmd⟩ hover d
  refine ⟨_, es, by rw [exec_write_of_enoughData hconf hd, hcall]; rfl, rfl, ?_, hdata, hsilent⟩
  rw [State.respond_rsp, Nat.zero_add]

end Sys2Proof.Proofs.PartialWrite

/-! ERASE_SECTOR by the step at which it ends: the whole next state, whatever the chip answers (R216, R217). -/

namespace Sys2Proof.Proofs.EraseSteps

open Sys2Proof.Machine Sys2Proof.Safety

/-- A status byte of zeros reads ready under every mask (R32). -/
theorem rawBusy_zero (p : Params) : rawBusy p 0#8 = false := by
  simp [rawBusy, statusMask, isBusy]

/-- The events of steps 3 and 4 of ERASE_SECTOR: the write-enable frame, then the status check that read `st` (R216). -/
def enableEvents (p : Params) (st : Byte) : List Event :=
  frameEvents [p.cmdWriteEnable] ++ pollEvents p st

/-- Steps 5 and 6 of ERASE_SECTOR end with the second wait, in a timeout or in success (R216). -/
theorem eraseAndWait_cases {x : Nat} {s t : State} (h : eraseAndWait x s = t) :
    ∃ after n, (∀ b ∈ after, rawBusy s.params b = true) ∧
      (after.length = s.params.tErasePost ∧
          t = (s.emitted (eraseEvents s.params x ++ busyPolls s.params after) n).reject (.timeout .afterErase) ∨
        after.length < s.params.tErasePost ∧ ∃ done, rawBusy s.params done = false ∧
          t = (s.emitted (eraseEvents s.params x ++ (busyPolls s.params after ++ pollEvents s.params done)) n).respond
            1#32 [] none) := by
  subst h
  rcases waitReady_cases s.params.tErasePost (s.emitted (eraseEvents s.params x) 0) with
    ⟨after, done, hlen, -, hbusy, hdone, hwait⟩ | ⟨hbusy, hwait⟩
  · exact ⟨after, _, hbusy, .inr ⟨hlen, done, hdone, eraseAndWait_ready hwait⟩⟩
  · exact ⟨_, _, hbusy, .inl ⟨State.rxAnswer_length _ _, eraseAndWait_timeout hwait⟩⟩

/-- Steps 3 to 6 of ERASE_SECTOR end at the latch check, or past it as `eraseAndWait` does (R216). -/
theorem enableAndErase_cases {x : Nat} {s t : State} (h : enableAndErase x s = t) :
    ∃ st, rawLatched s.params st = false ∧ t = (s.emitted (enableEvents s.params st) 1).reject .writeLatch ∨
      rawLatched s.params st = true ∧ eraseAndWait x (s.emitted (enableEvents s.params st) 1) = t := by
  subst h
  refine ⟨(s.rxAnswer 1).headD 0#8, ?_⟩
  cases hst : rawLatched s.params ((s.rxAnswer 1).headD 0#8)
  · exact .inl ⟨rfl, enableAndErase_unlatched hst⟩
  · exact .inr ⟨rfl, (enableAndErase_latched hst).symm⟩

/-- ERASE_SECTOR past its range check ends at the first wait, or past it as `enableAndErase` does (R216). -/
theorem execEraseSector_cases {x : Word} {s t : State} (hx : x.toNat < s.params.sectorCount)
    (h : execEraseSector x s = .next t) :
    ∃ busy n, (∀ b ∈ busy, rawBusy s.params b = true) ∧
      (busy.length = s.params.tErasePre ∧
          t = (s.emitted (busyPolls s.params busy) n).reject (.timeout .beforeErase) ∨
        busy.length < s.params.tErasePre ∧ ∃ ready, rawBusy s.params ready = false ∧
          enableAndErase x.toNat (s.emitted (busyPolls s.params busy ++ pollEvents s.params ready) n) = t) := by
  obtain ⟨hconf, -⟩ := guarded_next h
  rcases waitReady_cases s.params.tErasePre s with ⟨busy, ready, hlen, -, hbusy, hready, hwait⟩ | ⟨hbusy, hwait⟩
  · rw [execEraseSector_ready hconf hx hwait, Host.Outcome.next.injEq] at h
    exact ⟨busy, _, hbusy, .inr ⟨hlen, ready, hready, h⟩⟩
  · rw [execEraseSector_timeout hconf hx hwait, Host.Outcome.next.injEq] at h
    exact ⟨_, _, hbusy, .inl ⟨State.rxAnswer_length _ _, h.symm⟩⟩

/-- ERASE_SECTOR of a sector at or beyond SECTOR_COUNT is rejected with no event (R216 step 1). -/
theorem execEraseSector_beyond {x : Word} {s t : State} (hx : s.params.sectorCount ≤ x.toNat)
    (h : execEraseSector x s = .next t) : t = s.reject .range := by
  obtain ⟨-, h⟩ := guarded_next h
  rw [if_pos hx, Host.Outcome.next.injEq] at h
  exact h.symm

/-- Settles O50: the range check, the first wait, the latch check and the second wait are the only places to end, and at
each the trace holds the steps so far. The bytes of steps not reached are free. -/
theorem eraseIssuesStepsInOrder : Obligations.EraseIssuesStepsInOrder := by
  intro s t x h
  refine ⟨fun hx => by simp [execEraseSector_beyond hx h], fun hx => ?_⟩
  obtain ⟨busy, _, hbusy, ⟨hpre, rfl⟩ | ⟨hpre, ready, hready, hrest⟩⟩ := execEraseSector_cases hx h
  case inl => exact ⟨busy, [], 0#8, 0#8, by simpa using hbusy, rawBusy_zero _, .inl ⟨hpre, by simp⟩⟩
  obtain ⟨st, ⟨hst, rfl⟩ | ⟨hst, hrest⟩⟩ := enableAndErase_cases hrest
  case inl =>
    exact ⟨busy, [], ready, st, by simpa using hbusy, hready, .inr (.inl ⟨hpre, hst, by simp [enableEvents], rfl⟩)⟩
  obtain ⟨after, _, hafter, hend⟩ := eraseAndWait_cases hrest
  refine ⟨busy, after, ready, st, List.forall_mem_append.2 ⟨hbusy, hafter⟩, hready, .inr (.inr ?_)⟩
  obtain ⟨hpost, rfl⟩ | ⟨hpost, done, hdone, rfl⟩ := hend
  · exact .inl ⟨hpre, hst, hpost, by simp [enableEvents, eraseEvents, sectorAddress], rfl⟩
  · exact .inr ⟨hpre, hst, hpost, ⟨done, hdone, by simp [enableEvents, eraseEvents, sectorAddress]⟩, rfl⟩

end Sys2Proof.Proofs.EraseSteps

/-! Decoding and encoding are inverse to each other (R91 to R94, R100 to R105). -/

namespace Sys2Proof.Proofs.DecodeEncode

open Sys2Proof.Machine Sys2Proof.Proofs.StatusIdentity

/-- An address byte is a digit of the address in base 256 (R104). -/
theorem addressByte_toNat (k a : Nat) : (addressByte k a).toNat = a / 2 ^ (8 * k) % 256 := by
  simp [addressByte, Nat.shiftRight_eq_div_pow]

/-- Three address bytes are read as one number in base 256, as an identity is (R104, R110). -/
theorem addressOf24_eq_ofNat (hi mid lo : Byte) :
    addressOf24 hi mid lo = BitVec.ofNat 32 (hi.toNat * 65536 + mid.toNat * 256 + lo.toNat) :=
  packIdentity_eq_ofNat hi mid lo

/-- Two address bytes are three of which the upper is 0 (R104). -/
theorem addressOf16_eq_ofNat (hi lo : Byte) : addressOf16 hi lo = BitVec.ofNat 32 (hi.toNat * 256 + lo.toNat) := by
  have hzero : addressOf16 hi lo = addressOf24 0 hi lo := by simp [addressOf16, addressOf24]
  rw [hzero, addressOf24_eq_ofNat]
  simp

/-- Three address bytes carry an address of up to 24 bits whole (R105). -/
theorem addressOf24_addressByte {a : Word} (h : a.toNat < 2 ^ 24) :
    addressOf24 (addressByte 2 a.toNat) (addressByte 1 a.toNat) (addressByte 0 a.toNat) = a := by
  rw [addressOf24_eq_ofNat, addressByte_toNat, addressByte_toNat, addressByte_toNat]
  apply BitVec.eq_of_toNat_eq
  rw [BitVec.toNat_ofNat]
  omega

/-- Two address bytes carry an address of up to 16 bits whole (R105). -/
theorem addressOf16_addressByte {a : Word} (h : a.toNat < 2 ^ 16) :
    addressOf16 (addressByte 1 a.toNat) (addressByte 0 a.toNat) = a := by
  rw [addressOf16_eq_ofNat, addressByte_toNat, addressByte_toNat]
  apply BitVec.eq_of_toNat_eq
  rw [BitVec.toNat_ofNat]
  omega

/-- The number that three bytes are read as is not truncated. -/
theorem addressOf24_toNat (hi mid lo : Byte) :
    (addressOf24 hi mid lo).toNat = hi.toNat * 65536 + mid.toNat * 256 + lo.toNat := by
  rw [addressOf24_eq_ofNat, BitVec.toNat_ofNat]
  omega

/-- The number that two bytes are read as is not truncated. -/
theorem addressOf16_toNat (hi lo : Byte) : (addressOf16 hi lo).toNat = hi.toNat * 256 + lo.toNat := by
  rw [addressOf16_eq_ofNat, BitVec.toNat_ofNat]
  omega

theorem addressOf24_lt (hi mid lo : Byte) : (addressOf24 hi mid lo).toNat < 2 ^ 24 := by
  rw [addressOf24_toNat]
  omega

theorem addressOf16_lt (hi lo : Byte) : (addressOf16 hi lo).toNat < 2 ^ 16 := by
  rw [addressOf16_toNat]
  omega

/-- Framing the address of three bytes gives them back (R104). -/
theorem addressBytes24_addressOf24 (hi mid lo : Byte) :
    addressBytes24 (addressOf24 hi mid lo).toNat = [hi, mid, lo] := by
  simp only [addressBytes24, addressOf24_toNat, List.cons.injEq, and_true]
  refine ⟨?_, ?_, ?_⟩ <;> apply BitVec.eq_of_toNat_eq <;> rw [addressByte_toNat] <;> omega

/-- Framing the address of two bytes gives them back (R104). -/
theorem addressBytes16_addressOf16 (hi lo : Byte) : addressBytes16 (addressOf16 hi lo).toNat = [hi, lo] := by
  simp only [addressBytes16, addressOf16_toNat, List.cons.injEq, and_true]
  refine ⟨?_, ?_⟩ <;> apply BitVec.eq_of_toNat_eq <;> rw [addressByte_toNat] <;> omega

/-- The bytes of an address that fits its framing are taken back as that address (R103, R105). -/
theorem takeAddress_append {w a : Word} {ab : List Byte} (hab : addressBytes w a.toNat = some ab)
    (hfits : addressFits w a = true) (cmd : Byte) (rest : List Byte) :
    takeAddress cmd w (ab ++ rest) = .ok (a, rest) := by
  simp only [addressBytes] at hab
  split_ifs at hab with h24 h16 <;> cases hab
  · subst h24
    simp [takeAddress, addressBytes24, addressOf24_addressByte (of_decide_eq_true hfits)]
  · subst h16
    simp [takeAddress, addressBytes16, addressOf16_addressByte (of_decide_eq_true hfits)]

/-- An address that was taken fits its framing, whose bytes began the list (R103, R104). -/
theorem takeAddress_ok {cmd : Byte} {w a : Word} {bytes rest : List Byte}
    (h : takeAddress cmd w bytes = .ok (a, rest)) :
    legalWidth w = true ∧ addressFits w a = true ∧ ∃ ab, addressBytes w a.toNat = some ab ∧ bytes = ab ++ rest := by
  simp only [takeAddress] at h
  split_ifs at h with h24 h16
  · subst h24
    split at h <;> cases h
    next hi mid lo =>
      exact ⟨rfl, decide_eq_true (addressOf24_lt hi mid lo), _,
        congrArg some (addressBytes24_addressOf24 hi mid lo), rfl⟩
  · subst h16
    split at h <;> cases h
    next hi lo =>
      exact ⟨rfl, decide_eq_true (addressOf16_lt hi lo), _, congrArg some (addressBytes16_addressOf16 hi lo), rfl⟩

/-- Where the width has a framing, bytes without an address are a malformed frame (R102, R118). -/
theorem takeAddress_error {cmd : Byte} {w : Word} {bytes : List Byte} {e : DecodeError}
    (hw : legalWidth w = true) (h : takeAddress cmd w bytes = .error e) : e = .malformedFrame cmd := by
  simp only [legalWidth, Bool.or_eq_true, beq_iff_eq] at hw
  simp only [takeAddress] at h
  split_ifs at h with h24 h16
  · split at h <;> cases h
    rfl
  · split at h <;> cases h
    rfl
  · exact absurd hw (not_or.2 ⟨h24, h16⟩)

/-- The frame is the encoding of the wire command `i`, and `i` is well formed at that width. -/
def IsEncodingOf (p : Params) (w : Word) (f : WireFrame) (i : Instr) : Prop :=
  i.isHost = false ∧ i.wellFormed w = true ∧ encode p w i = some (.frame f)

theorem decodePlain_ok {cmd : Byte} {rest : List Byte} {read want : Option Nat} {i j : Instr}
    (h : decodePlain cmd rest read want j = .ok i) : rest = [] ∧ read = want ∧ i = j := by
  simp only [decodePlain] at h
  split_ifs at h with hlayout
  cases h
  exact ⟨hlayout.1, hlayout.2, rfl⟩

theorem isEncodingOf_decodePageProgram {p : Params} {w : Word} {rest : List Byte} {read : Option Nat} {i : Instr}
    (h : decodePageProgram p.cmdPageProgram w rest read = .ok i) :
    IsEncodingOf p w ⟨p.cmdPageProgram :: rest, read⟩ i := by
  simp only [decodePageProgram] at h
  split at h <;> cases h
  next a data htake =>
    obtain ⟨hw, hfits, ab, hab, rfl⟩ := takeAddress_ok htake
    exact ⟨rfl, by simp [Instr.wellFormed, hw, hfits], by simp [encode, hab, frameWords]⟩

theorem isEncodingOf_decodeSectorErase {p : Params} {w : Word} {rest : List Byte} {read : Option Nat} {i : Instr}
    (h : decodeSectorErase p.cmdSectorErase rest read = .ok i) :
    IsEncodingOf p w ⟨p.cmdSectorErase :: rest, read⟩ i := by
  simp only [decodeSectorErase] at h
  split at h <;> cases h
  next a htake =>
    obtain ⟨-, hfits, ab, hab, rfl⟩ := takeAddress_ok htake
    cases hab
    exact ⟨rfl, hfits, by simp [encode, frameWords]⟩

theorem isEncodingOf_decodeDataRead {p : Params} {w : Word} {rest : List Byte} {read : Option Nat} {i : Instr}
    (h : decodeDataRead p.cmdDataRead w rest read = .ok i) :
    IsEncodingOf p w ⟨p.cmdDataRead :: rest, read⟩ i := by
  simp only [decodeDataRead] at h
  split at h
  next a n htake =>
    split_ifs at h with hn
    cases h
    obtain ⟨hw, hfits, ab, hab, rfl⟩ := takeAddress_ok htake
    exact ⟨rfl, by simp [Instr.wellFormed, hw, hfits], by simp [encode, hab, frameWords]; exact hn⟩
  all_goals cases h

/-- A frame decodes only to a well-formed wire command that it encodes (R100 to R105). -/
theorem isEncodingOf_of_decodeFrame {p : Params} {w : Word} {f : WireFrame} {i : Instr}
    (h : decodeFrame p w f = .ok i) : IsEncodingOf p w f i := by
  obtain ⟨sent, read⟩ := f
  cases sent with
  | nil => cases h
  | cons cmd rest =>
    simp only [decodeFrame] at h
    split_ifs at h with h1 h2 h3 h4 h5 h6 h7 <;> subst cmd
    · obtain ⟨rfl, rfl, rfl⟩ := decodePlain_ok h
      exact ⟨rfl, rfl, rfl⟩
    · obtain ⟨rfl, rfl, rfl⟩ := decodePlain_ok h
      exact ⟨rfl, rfl, rfl⟩
    · obtain ⟨rfl, rfl, rfl⟩ := decodePlain_ok h
      exact ⟨rfl, rfl, rfl⟩
    · exact isEncodingOf_decodePageProgram h
    · exact isEncodingOf_decodeSectorErase h
    · exact isEncodingOf_decodeDataRead h
    · obtain ⟨rfl, rfl, rfl⟩ := decodePlain_ok h
      exact ⟨rfl, rfl, rfl⟩

/-- Settles O11: the encoding's part of `isEncodingOf_of_decodeFrame`. -/
theorem encodeOfDecodedFrameIsFrame : Obligations.EncodeOfDecodedFrameIsFrame := by
  intro p w f i h
  obtain ⟨-, -, hencode⟩ := isEncodingOf_of_decodeFrame h
  exact hencode

/-- A host request that encodes an operation decodes to it: the fields it does not use are not read, and those it uses
are read whole (R91, R92, R94). -/
theorem decode_encode_host {i : Instr} (h : i.isHost = true) (p : Params) (w : Word) :
    ∃ e, encode p w i = some e ∧ decode p w e = .ok i := by
  cases i with
  | config c slots => exact ⟨_, rfl, by simp [decode, requestWords, decodeRequest]⟩
  | setWren enable => exact ⟨_, rfl, by cases enable <;> rfl⟩
  | readStatus | readId | read | writePage | write | eraseSector => exact ⟨_, rfl, rfl⟩
  | writeEnable | writeDisable | readStatus1 | pageProgram | sectorErase4kb | dataRead | jedecId => cases h

/-- A PAGE_PROGRAM frame is the command, the framed address and the data (R114). -/
theorem encode_pageProgram {p : Params} {w a : Word} {ab : List Byte} (hab : addressBytes w a.toNat = some ab)
    (data : List Byte) :
    encode p w (.pageProgram a data) = some (frameWords (p.cmdPageProgram :: ab ++ data)) := by
  simp [encode, hab]

/-- A DATA_READ frame is the command, the framed address and the read part (R116). -/
theorem encode_dataRead {p : Params} {w a : Word} {ab : List Byte} (hab : addressBytes w a.toNat = some ab) (n : Word) :
    encode p w (.dataRead a n) = some (frameWords (p.cmdDataRead :: ab) (some n.toNat)) := by
  simp [encode, hab]

/-- A wire frame that encodes a well-formed command decodes to it: its first byte tells the command (R101), and an
address that fits is carried whole (R105). -/
theorem decode_encode_wire {p : Params} {w : Word} {i : Instr} (hp : p.commands.Nodup) (hi : i.isHost = false)
    (hwf : i.wellFormed w = true) : ∃ e, encode p w i = some e ∧ decode p w e = .ok i := by
  simp only [Params.commands, List.nodup_cons, List.mem_cons, List.not_mem_nil, or_false, not_or] at hp
  cases i with
  | config | readStatus | readId | setWren | read | writePage | write | eraseSector => cases hi
  | writeEnable | writeDisable | readStatus1 | jedecId =>
    exact ⟨_, rfl, by simp [frameWords, decode, decodeFrame, decodePlain, Ne.symm, hp]⟩
  | pageProgram a data =>
    obtain ⟨hw, hfits⟩ := Bool.and_eq_true_iff.1 hwf
    obtain ⟨ab, hab⟩ := ReadClamp.exists_addressBytes_of_legalWidth hw a.toNat
    refine ⟨_, encode_pageProgram hab data, ?_⟩
    simp [frameWords, decode, decodeFrame, decodePageProgram, takeAddress_append hab hfits, Ne.symm, hp]
  | sectorErase4kb a =>
    have htake := takeAddress_append rfl hwf p.cmdSectorErase []
    rw [List.append_nil] at htake
    exact ⟨_, rfl, by simp [frameWords, decode, decodeFrame, decodeSectorErase, htake, Ne.symm, hp]⟩
  | dataRead a n =>
    obtain ⟨hw, hfits⟩ := Bool.and_eq_true_iff.1 hwf
    obtain ⟨ab, hab⟩ := ReadClamp.exists_addressBytes_of_legalWidth hw a.toNat
    have htake := takeAddress_append hab hfits p.cmdDataRead []
    rw [List.append_nil] at htake
    refine ⟨_, encode_dataRead hab n, ?_⟩
    simp [frameWords, decode, decodeFrame, decodeDataRead, htake, Ne.symm, hp, n.isLt]

/-- Settles O10: requests need no hypothesis, frames need that their first bytes differ and that the address fits. -/
theorem decodeOfEncodeIsInstruction : Obligations.DecodeOfEncodeIsInstruction := by
  intro p w i hp hwf
  cases hi : i.isHost
  · exact decode_encode_wire hp hi hwf
  · exact decode_encode_host hi p w

/-- Settles O7: each operation number selects its branch; a slot mask is the low six bits and a flag the lowest bit of
its field. -/
theorem requestDecodesByOpAndUsedFields : Obligations.RequestDecodesByOpAndUsedFields := by
  intro a0 a1 fl wd
  have hslots : a1.setWidth 6 = a1.extractLsb' 0 6 := BitVec.setWidth_eq_extractLsb' (by decide)
  have hflag : a0.getLsbD 0 = decide (a0.toNat % 2 = 1) := by simp [BitVec.getLsbD, Nat.testBit_zero]
  rw [← hslots, ← hflag]
  exact ⟨rfl, rfl, rfl, rfl, rfl, rfl, rfl, rfl⟩

/-- Settles O9: the seven sample frames are decoded by evaluation. -/
theorem sampleFramesDecode : Obligations.SampleFramesDecode :=
  ⟨rfl, rfl, rfl, rfl, rfl, rfl, rfl⟩

/-- Settles O14: the two widths that have a framing, and a shift by whole bytes as a division. -/
theorem addressFraming : Obligations.AddressFraming := by
  intro w a
  refine ⟨?_, ?_, fun h24 h16 => (if_neg h24).trans (if_neg h16)⟩
  · rintro rfl
    simp [addressBytes, addressBytes24, addressByte, Nat.shiftRight_eq_div_pow]
  · rintro rfl
    simp [addressBytes, addressBytes16, addressByte, Nat.shiftRight_eq_div_pow]

end Sys2Proof.Proofs.DecodeEncode

/-! What a step runs, and what it refuses: requests in IDLE, frames in RUN (R30, R95, R97, R118). -/

namespace Sys2Proof.Proofs.StepDispatch

open Sys2Proof.Machine Sys2Proof.Proofs.DecodeEncode

/-- The fetch of a presented request, and what the step makes of it (R30, R90). -/
theorem step_request {s : State} {r : HostReq} {rest : List HostReq} (hp : s.phase = .idle)
    (hr : s.hostPort = r :: rest) :
    step s = match decodeRequest r with
      | .ok i => exec i (s.takeRequest rest)
      | .error e => .refused (.undecodable e) := by
  simp only [step, fetch, hp, fetchRequest, hr]
  cases decodeRequest r <;> rfl

/-- The fetch of the next wire frame, and what the step makes of it (R97). -/
theorem step_frame {s : State} {f : WireFrame} {rest : List WireFrame} (hp : s.phase = .run)
    (hc : s.configured = true) (hf : s.wirePort = f :: rest) :
    step s = match decodeFrame s.params s.geo.addressWidth f with
      | .ok i => exec i { s with wirePort := rest }
      | .error e => .refused (.undecodable e) := by
  simp only [step, fetch, hp, fetchFrame, hf, hc, if_true]
  cases decodeFrame s.params s.geo.addressWidth f <;> rfl

/-- Settles O3: a request that decodes is run. -/
theorem stepRunsPresentedRequest : Obligations.StepRunsPresentedRequest := by
  intro s r rest i hp hr hd
  rw [step_request hp hr, hd]
  rfl

/-- Settles O4: a frame that decodes is run. -/
theorem stepRunsNextFrame : Obligations.StepRunsNextFrame := by
  intro s f rest i hp hc hf hd
  rw [step_frame hp hc hf, hd]

/-- Settles O5: with an empty port the fetch stays, in IDLE as it is and in RUN by going to IDLE. -/
theorem stepWithNothingToRun : Obligations.StepWithNothingToRun := by
  intro s
  refine ⟨fun hp hr => ?_, fun hp hf => ?_⟩
  · simp only [step, fetch, hp, fetchRequest, hr]
  · simp only [step, fetch, hp, fetchFrame, hf]

/-- The operation numbers 8 to 15 name no operation (R95). -/
theorem decodeRequest_reserved {r : HostReq} (h : 8 ≤ r.op.toNat) : decodeRequest r = .error (.reservedOp r.op) := by
  have hne : ∀ k : BitVec 4, k.toNat < 8 → r.op ≠ k := by
    rintro k hk rfl
    omega
  simp only [decodeRequest, hne 0#4 (by decide), hne 1#4 (by decide), hne 2#4 (by decide), hne 3#4 (by decide),
    hne 4#4 (by decide), hne 5#4 (by decide), hne 6#4 (by decide), hne 7#4 (by decide), if_false]

/-- Settles O8: a reserved number does not decode, so the step refuses it. -/
theorem reservedOperationRefused : Obligations.ReservedOperationRefused := by
  intro s r rest hop hp hr
  rw [step_request hp hr, decodeRequest_reserved hop]

/-- A first byte that is none of the seven names no command (R118). -/
theorem decodeFrame_unknown {p : Params} {cmd : Byte} (h : cmd ∉ p.commands) (w : Word) (bytes : List Byte)
    (read : Option Nat) : decodeFrame p w ⟨cmd :: bytes, read⟩ = .error (.unknownCommand cmd) := by
  simp only [Params.commands, List.mem_cons, List.not_mem_nil, or_false, not_or] at h
  simp [decodeFrame, h]

theorem decodePlain_error {cmd : Byte} {rest : List Byte} {read want : Option Nat} {i : Instr} {e : DecodeError}
    (h : decodePlain cmd rest read want i = .error e) : e = .malformedFrame cmd := by
  simp only [decodePlain] at h
  split_ifs at h
  cases h
  rfl

/-- Where the width has a framing, a frame with a known command that does not decode is refused for its layout
(R102). -/
theorem decodeFrame_malformed {p : Params} {w : Word} {cmd : Byte} {bytes : List Byte} {read : Option Nat}
    {e : DecodeError} (hcmd : cmd ∈ p.commands) (hw : legalWidth w = true)
    (h : decodeFrame p w ⟨cmd :: bytes, read⟩ = .error e) : e = .malformedFrame cmd := by
  simp only [decodeFrame] at h
  split_ifs at h with h1 h2 h3 h4 h5 h6 h7
  · exact decodePlain_error h
  · exact decodePlain_error h
  · exact decodePlain_error h
  · simp only [decodePageProgram] at h
    split at h <;> cases h
    · rfl
    · exact takeAddress_error hw ‹_›
  · simp only [decodeSectorErase] at h
    split at h <;> cases h
    · rfl
    · exact takeAddress_error rfl ‹_›
  · simp only [decodeDataRead] at h
    split at h
    · split_ifs at h
      cases h
      rfl
    · cases h
      rfl
    · cases h
      exact takeAddress_error hw ‹_›
  · exact decodePlain_error h
  · simp [Params.commands, h1, h2, h3, h4, h5, h6, h7] at hcmd

/-- Settles O60: a frame that decodes encodes a well-formed command, so the others are refused, each for its reason. -/
theorem undecodableFrameRefused : Obligations.UndecodableFrameRefused := by
  rintro s ⟨sent, read⟩ rest hp hc hf
  rw [step_frame hp hc hf]
  refine ⟨?_, ?_⟩
  · rintro rfl
    rfl
  · rintro cmd bytes rfl
    refine ⟨fun hunknown => by rw [decodeFrame_unknown hunknown], fun hknown hnone => ?_⟩
    cases hd : decodeFrame s.params s.geo.addressWidth ⟨cmd :: bytes, read⟩ with
    | ok i =>
      obtain ⟨hhost, hwf, hencode⟩ := isEncodingOf_of_decodeFrame hd
      exact absurd hencode (hnone i hhost hwf)
    | error e => exact ⟨e, rfl, fun hw => decodeFrame_malformed hknown hw hd⟩

end Sys2Proof.Proofs.StepDispatch

/-! What instructions and steps leave as it is, and the invariant of the machine (R24, R38, R61, R248). -/

namespace Sys2Proof.Proofs.Invariant

open Sys2Proof.Machine Sys2Proof.Safety

/-- What CONFIG leaves as it is: all but the response and the control state it writes (R131, R132). -/
theorem execConfig_keeps {c : Word} {slots : BitVec 6} {s t : State} (h : execConfig c slots s = .next t) :
    t.params = s.params ∧ t.hostPort = s.hostPort ∧ t.wirePort = s.wirePort ∧ t.cs = s.cs := by
  rcases execConfig_next h with rfl | ⟨cp, -, -, rfl⟩
  · exact ⟨rfl, rfl, rfl, rfl⟩
  · exact ⟨rfl, rfl, rfl, rfl⟩

/-- Settles O21: but for CONFIG an instruction emits events and responds at most. -/
theorem onlyConfigWritesControlState : Obligations.OnlyConfigWritesControlState := by
  intro i s t h
  obtain ⟨c, slots, rfl, h⟩ | ⟨-, es, n, rfl⟩ | ⟨-, -, es, n, ret, d, cause, rfl⟩ := exec_next h
  · obtain ⟨hparams, hhost, hwire, -⟩ := execConfig_keeps h
    exact ⟨hparams, hhost, hwire, nofun⟩
  · exact ⟨rfl, rfl, rfl, fun _ => rfl⟩
  · exact ⟨rfl, rfl, rfl, fun _ => rfl⟩

/-- Emitted frames and delays leave a deasserted chip-select deasserted (R61). -/
theorem emitted_cs {s : State} (h : s.cs = false) (es : List Event) (n : Nat) : (s.emitted es n).cs = false := by
  simp [State.emitted, h]

/-- No instruction leaves chip-select asserted that found it deasserted (R31, R61). -/
theorem exec_cs {i : Instr} {s t : State} (hcs : s.cs = false) (h : exec i s = .next t) : t.cs = false := by
  obtain ⟨c, slots, rfl, h⟩ | ⟨-, es, n, rfl⟩ | ⟨-, -, es, n, ret, d, cause, rfl⟩ := exec_next h
  · obtain ⟨-, -, -, hkeep⟩ := execConfig_keeps h
    exact hkeep.trans hcs
  · exact emitted_cs hcs es n
  · exact emitted_cs hcs es n

/-- The control state after an instruction is what it was, or what a successful CONFIG writes (R26, R38, R131). -/
theorem exec_control {i : Instr} {s t : State} (h : exec i s = .next t) :
    (t.configured = s.configured ∧ t.binding = s.binding ∧ t.geo = s.geo) ∨
    (t.configured = true ∧ t.binding = allSlots ∧ ∃ c, t.geo = geometryOf s.params c) := by
  obtain ⟨c, slots, rfl, h⟩ | ⟨-, es, n, rfl⟩ | ⟨-, -, es, n, ret, d, cause, rfl⟩ := exec_next h
  · rcases execConfig_next h with rfl | ⟨cp, -, -, rfl⟩
    · exact .inl ⟨rfl, rfl, rfl⟩
    · exact .inr ⟨rfl, rfl, cp, rfl⟩
  · exact .inl ⟨rfl, rfl, rfl⟩
  · exact .inl ⟨rfl, rfl, rfl⟩

theorem exec_configured {i : Instr} {s t : State} (hs : s.configured = true) (h : exec i s = .next t) :
    t.configured = true := by
  obtain ⟨hconf, -⟩ | ⟨hconf, -⟩ := exec_control h
  · exact hconf.trans hs
  · exact hconf

/-- Settles O22: the fetch leaves the flag alone, and so does every instruction. -/
theorem configuredIsNeverCleared : Obligations.ConfiguredIsNeverCleared := by
  intro s t h hs
  obtain ⟨-, -, rfl⟩ | ⟨-, -, rfl⟩ | ⟨r, rest, i, -, -, -, h⟩ | ⟨f, rest, i, -, -, -, -, h⟩ := step_next h
  · exact hs
  · exact hs
  · exact exec_configured (s := s.takeRequest rest) hs h
  · exact exec_configured (s := { s with wirePort := rest }) hs h

/-- Settles O6: in RUN a step takes a frame at most, and no instruction takes a request. -/
theorem runningStepTakesNoRequest : Obligations.RunningStepTakesNoRequest := by
  intro s t hrun h
  obtain ⟨hidle, -⟩ | ⟨-, -, rfl⟩ | ⟨r, rest, i, hidle, -⟩ | ⟨f, rest, i, -, -, -, -, h⟩ := step_next h
  · rw [hrun] at hidle
    cases hidle
  · rfl
  · rw [hrun] at hidle
    cases hidle
  · obtain ⟨-, hhost, -⟩ := onlyConfigWritesControlState _ _ _ h
    exact hhost

/-- The invariant speaks of the control state, chip-select and the trace alone. -/
theorem machineInv_congr {s t : State} (h : MachineInv s) (hcontrol : controlState t = controlState s)
    (hcs : t.cs = s.cs) (htrace : t.trace = s.trace) : MachineInv t := by
  obtain ⟨hok, hcoherent, hbound, hgeo, hdeasserted, hdisc⟩ := h
  simp only [controlState, Prod.mk.injEq] at hcontrol
  obtain ⟨hp, hc, hb, hg⟩ := hcontrol
  constructor <;> simp only [hp, hc, hb, hg, hcs, htrace] <;> assumption

/-- Every instruction keeps the invariant. -/
theorem exec_keeps_machineInv {i : Instr} {s t : State} (hinv : MachineInv s) (h : exec i s = .next t) :
    MachineInv t := by
  obtain ⟨hok, hcoherent, hbound, hgeo, hdeasserted, hdisc⟩ := hinv
  obtain ⟨hp, es, htrace, hes⟩ := WholeFrames.exec_appendsFrames h
  have hcs := exec_cs hdeasserted h
  have htrace' : Disciplined t.params t.trace := by
    rw [hp, htrace]
    exact hdisc.append hes
  obtain ⟨hc, hb, hg⟩ | ⟨-, hb, hg⟩ := exec_control h
  · exact ⟨hp ▸ hok, hp ▸ hcoherent, hc ▸ hb ▸ hbound, by rw [hc, hg, hp]; exact hgeo, hcs, htrace'⟩
  · exact ⟨hp ▸ hok, hp ▸ hcoherent, fun _ => hb, fun _ => hp ▸ hg, hcs, htrace'⟩

/-- Settles O53: the fetch changes none of what the invariant speaks of, and every instruction keeps it. -/
theorem stepKeepsInvariant : Obligations.StepKeepsInvariant := by
  intro s t hinv h
  obtain ⟨-, -, rfl⟩ | ⟨-, -, rfl⟩ | ⟨r, rest, i, -, -, -, h⟩ | ⟨f, rest, i, -, -, -, -, h⟩ := step_next h
  · exact hinv
  · exact machineInv_congr hinv rfl rfl rfl
  · exact exec_keeps_machineInv (s := s.takeRequest rest) (machineInv_congr hinv rfl rfl rfl) h
  · exact exec_keeps_machineInv (s := { s with wirePort := rest }) (machineInv_congr hinv rfl rfl rfl) h

/-- The parameters at reset meet R8: the defaults by their values, the open ones by their types (log 6). -/
theorem configParams_ok : Config.params.Ok := by
  have hsector : Config.sectorCount.val * 4096 ≤ 2 ^ 32 := by omega
  exact ⟨by decide, by decide, by decide, ⟨by decide, hsector⟩, by decide, by decide, Config.tProg.isLt, by decide⟩

/-- Settles O2: the parameters are within R8, and nothing was configured or emitted. -/
theorem resetMeetsInvariant : Obligations.ResetMeetsInvariant :=
  ⟨configParams_ok, by decide, nofun, nofun, rfl, rfl⟩

/-- Settles O1: the fields of the reset state. -/
theorem resetIsUnconfiguredAndSilent : Obligations.ResetIsUnconfiguredAndSilent :=
  ⟨rfl, rfl, rfl, rfl, rfl⟩

/-- R8's bounds for one capacity: page size and page count are positive and their product fits in 32 bits. -/
theorem pageCount_bounds {p : Params} (h : p.Ok) (c : Capacity) :
    0 < p.pageSize ∧ 0 < p.pageCount c ∧ p.pageCount c * p.pageSize < 2 ^ 32 := by
  obtain ⟨hsize, ⟨h64, h128, h256⟩, ⟨ht64, ht128, ht256⟩, -⟩ := h
  cases c
  · exact ⟨hsize, h64, ht64⟩
  · exact ⟨hsize, h128, ht128⟩
  · exact ⟨hsize, h256, ht256⟩

/-- Within R8 the geometry that CONFIG stores is not truncated (R23, R26). -/
theorem geometryOf_toNat {p : Params} (h : p.Ok) (c : Capacity) :
    (geometryOf p c).pageSize.toNat = p.pageSize ∧ (geometryOf p c).pageCount.toNat = p.pageCount c ∧
      (geometryOf p c).totalSize.toNat = p.pageCount c * p.pageSize := by
  obtain ⟨hsize, hcount, htotal⟩ := pageCount_bounds h c
  have hsize' : p.pageSize < 2 ^ 32 := (Nat.le_mul_of_pos_left _ hcount).trans_lt htotal
  have hcount' : p.pageCount c < 2 ^ 32 := (Nat.le_mul_of_pos_right _ hsize).trans_lt htotal
  exact ⟨Nat.mod_eq_of_lt hsize', Nat.mod_eq_of_lt hcount', Nat.mod_eq_of_lt htotal⟩

/-- Settles O54: the geometry is one of R26's, whose registers hold the parameters' values whole. -/
theorem totalSizeIsPageCountTimesPageSize : Obligations.TotalSizeIsPageCountTimesPageSize := by
  intro s hinv hconf
  obtain ⟨c, hgeo⟩ := hinv.geometry hconf
  obtain ⟨hsize, hcount, htotal⟩ := geometryOf_toNat hinv.params_ok c
  obtain ⟨hpos, -⟩ := hinv.params_ok
  obtain ⟨-, hwidth, -⟩ := hinv.params_coherent
  rw [hgeo]
  refine ⟨by rw [htotal, hcount, hsize], fun hzero => ?_, ?_⟩
  · rw [hzero] at hsize
    exact hpos.ne hsize
  · rcases hwidth with h | h <;> simp [geometryOf, legalWidth, h]

end Sys2Proof.Proofs.Invariant

/-! The one fault, and the wire commands as the frames they encode (R100 to R117, R230, R238). -/

namespace Sys2Proof.Proofs.NotConfigured

open Sys2Proof.Machine Sys2Proof.Proofs.ConfigOutcome

/-- Settles O23: the guard of the host operations. -/
theorem unconfiguredOperationFaults : Obligations.UnconfiguredOperationFaults :=
  fun _ _ hhost hconfig hs => exec_host_of_unconfigured hhost hconfig hs

/-- Settles O25: the wire commands have the same guard (log 7). -/
theorem unconfiguredFrameFaults : Obligations.UnconfiguredFrameFaults := by
  intro i s hwire hs
  cases i with
  | config | readStatus | readId | setWren | read | writePage | write | eraseSector => cases hwire
  | writeEnable | writeDisable | readStatus1 | pageProgram | sectorErase4kb | dataRead | jedecId =>
    exact guarded_of_unconfigured hs _

/-- CONFIG never faults (R131). -/
theorem exec_config_ne_fault (c : Word) (slots : BitVec 6) (s : State) (f : Fault) :
    exec (.config c slots) s ≠ .fault f := by
  simp only [exec, execConfig]
  split
  · nofun
  · split <;> nofun

/-- There is one fault only. -/
theorem fault_eq_notConfigured (f : Fault) : f = .notConfigured := by
  cases f
  rfl

/-- A page write is refused or ends, and never faults (R171). -/
theorem writePageCall_ne_fault (a : Nat) (d : List Byte) (n : Nat) (fq : Bool) (s : State) (f : Fault) :
    writePageCall a d n fq s ≠ .fault f := by
  simp only [writePageCall]
  split_ifs
  · nofun
  · nofun
  · nofun
  · nofun
  · split <;> nofun

/-- The chunk loop never faults, since its page writes do not (R186). -/
theorem writeLoop_ne_fault (P : Nat) (d : List Byte) (fuel addr off rem total : Nat) (s : State) (f : Fault) :
    writeLoop P d fuel addr off rem total s ≠ .fault f := by
  induction fuel generalizing addr off rem total s with
  | zero => nofun
  | succ fuel ih =>
    simp only [writeLoop]
    split
    · nofun
    · split
      next r _ =>
        split
        · nofun
        · exact ih _ _ _ _ _
      next g hg => exact absurd hg (writePageCall_ne_fault _ _ _ _ _ _)
      next => nofun

theorem writeCall_ne_fault (a : Nat) (d : List Byte) (n : Nat) (s : State) (f : Fault) :
    writeCall a d n s ≠ .fault f := by
  simp only [writeCall]
  split_ifs
  · nofun
  · exact writePageCall_ne_fault _ _ _ _ _ _
  · exact writeLoop_ne_fault _ _ _ _ _ _ _ _ _

/-- The response of a write operation faults only where its call does. -/
theorem finishWrite_ne_fault {o : Host.Outcome WriteDone Fault Refusal} {f : Fault} (h : ∀ g, o ≠ .fault g) :
    finishWrite o ≠ .fault f := by
  cases o with
  | next | refused => nofun
  | fault g => exact absurd rfl (h g)

/-- In a configured machine no instruction faults: past the guard every arm ends or is refused (R230). -/
theorem exec_ne_fault_of_configured {s : State} (h : s.configured = true) (i : Instr) (f : Fault) :
    exec i s ≠ .fault f := by
  cases i with
  | config c slots => exact exec_config_ne_fault c slots s f
  | readStatus | setWren | writeEnable | writeDisable | readStatus1 | sectorErase4kb | jedecId =>
    exact ne_of_eq_of_ne (guarded_of_configured h _) nofun
  | readId | pageProgram | dataRead =>
    refine ne_of_eq_of_ne (guarded_of_configured h _) ?_
    split <;> nofun
  | read =>
    refine ne_of_eq_of_ne (guarded_of_configured h _) ?_
    split
    · nofun
    · split <;> nofun
  | writePage =>
    refine ne_of_eq_of_ne (guarded_of_configured h _) ?_
    split
    · exact finishWrite_ne_fault (writePageCall_ne_fault _ _ _ _ _)
    · nofun
  | write =>
    refine ne_of_eq_of_ne (guarded_of_configured h _) ?_
    split
    · exact finishWrite_ne_fault (writeCall_ne_fault _ _ _ _)
    · nofun
  | eraseSector =>
    refine ne_of_eq_of_ne (guarded_of_configured h _) ?_
    split <;> nofun

/-- Settles O24: a fault shows an unconfigured machine, and CONFIG has none. -/
theorem faultOnlyWhenUnconfigured : Obligations.FaultOnlyWhenUnconfigured := by
  intro i s f h
  refine ⟨fault_eq_notConfigured f, ?_, ?_⟩
  · by_contra hconf
    exact exec_ne_fault_of_configured (Bool.not_eq_false _ ▸ hconf) i f h
  · cases i with
    | config c slots => exact absurd h (exec_config_ne_fault c slots s f)
    | _ => rfl

end Sys2Proof.Proofs.NotConfigured

namespace Sys2Proof.Proofs.WireFrames

open Sys2Proof.Machine Sys2Proof.Safety Sys2Proof.Proofs.DecodeEncode

/-- The state after a wire frame: its bytes on the bus and, where it ends in an `RX`, the oracle's answer (R100,
R102). -/
def sendFrame (s : State) (f : WireFrame) : State :=
  match f.read with
  | none => s.emitted (frameEvents f.sent) 0
  | some n => s.emitted (frameEvents f.sent [.rx (s.rxAnswer n)]) n

/-- A wire command in a configured machine sends the frame it encodes and does nothing else (R111 to R117). -/
theorem exec_wire {i : Instr} {s : State} {f : WireFrame} (hconf : s.configured = true)
    (hencode : encode s.params s.geo.addressWidth i = some (.frame f)) : exec i s = .next (sendFrame s f) := by
  cases i with
  | config | readStatus | readId | setWren | read | writePage | write | eraseSector => cases hencode
  | writeEnable | writeDisable =>
    cases hencode
    simp only [exec, execWriteEnable, execWriteDisable, guarded_of_configured hconf, State.setWrenFrame_emitted]
    rfl
  | readStatus1 =>
    cases hencode
    simp only [exec, execReadStatus1, guarded_of_configured hconf, State.readStatusFrame_emitted, pollEvents,
      ← State.rxAnswer_one]
    rfl
  | sectorErase4kb =>
    cases hencode
    simp only [exec, execSectorErase4kb, guarded_of_configured hconf, State.sendHead_emitted]
    rfl
  | jedecId =>
    cases hencode
    simp only [exec, execJedecId, guarded_of_configured hconf, State.sendRead_emitted]
    rfl
  | pageProgram =>
    obtain ⟨ab, hab, h⟩ := Option.map_eq_some_iff.1 hencode
    cases h
    simp only [exec, execPageProgram, guarded_of_configured hconf, hab, State.sendData_emitted]
    rfl
  | dataRead =>
    obtain ⟨ab, hab, h⟩ := Option.map_eq_some_iff.1 hencode
    cases h
    simp only [exec, execDataRead, guarded_of_configured hconf, hab, State.sendRead_emitted]
    rfl

/-- A well-formed wire command has a frame (R104). -/
theorem exists_frame {i : Instr} {w : Word} (hwire : i.isHost = false) (hwf : i.wellFormed w = true) (p : Params) :
    ∃ f, encode p w i = some (.frame f) := by
  cases i with
  | config | readStatus | readId | setWren | read | writePage | write | eraseSector => cases hwire
  | writeEnable | writeDisable | readStatus1 | sectorErase4kb | jedecId => exact ⟨_, rfl⟩
  | pageProgram a data =>
    obtain ⟨hw, -⟩ := Bool.and_eq_true_iff.1 hwf
    obtain ⟨ab, hab⟩ := ReadClamp.exists_addressBytes_of_legalWidth hw a.toNat
    exact ⟨_, encode_pageProgram hab data⟩
  | dataRead a n =>
    obtain ⟨hw, -⟩ := Bool.and_eq_true_iff.1 hwf
    obtain ⟨ab, hab⟩ := ReadClamp.exists_addressBytes_of_legalWidth hw a.toNat
    exact ⟨_, encode_dataRead hab n⟩

/-- The events of a frame are those of its bytes and of its read part, if it has one (R102). -/
theorem sendFrame_trace (s : State) (f : WireFrame) :
    (sendFrame s f).trace = s.trace ++ frameEvents f.sent (match f.read with
      | none => []
      | some n => [.rx (s.rxAnswer n)]) := by
  obtain ⟨sent, read⟩ := f
  cases read <;> rfl

/-- Settles O15: the frame of the encoding is what `exec_wire` sends. -/
theorem wireCommandSendsItsEncoding : Obligations.WireCommandSendsItsEncoding := by
  intro s i hconf hwire hwf
  obtain ⟨f, hf⟩ := exists_frame hwire hwf s.params
  exact ⟨f, _, hf, exec_wire hconf hf, sendFrame_trace s f⟩

/-- A sending frame as a whole next state. -/
theorem sendFrame_none (s : State) (sent : List Byte) :
    sendFrame s ⟨sent, none⟩ = { s with trace := s.trace ++ frameEvents sent, cs := false } := by
  simp [sendFrame, State.emitted, frameEvents_ne_nil]

/-- A reading frame as a whole next state. -/
theorem sendFrame_some (s : State) (sent : List Byte) (n : Nat) :
    sendFrame s ⟨sent, some n⟩ =
      { s with
        trace := s.trace ++ frameEvents sent [.rx (s.rxAnswer n)], cs := false
        rxIn := s.rxIn.drop n, rxFree := s.rxFree + (n - s.rxIn.length) } := by
  simp [sendFrame, State.emitted, frameEvents_ne_nil]

/-- Settles O12: the frames of the four commands without an address, written out. -/
theorem plainWireCommandsSendOneFrame : Obligations.PlainWireCommandsSendOneFrame := by
  intro s hconf
  refine ⟨?_, ?_, ?_, ?_⟩
  · rw [exec_wire hconf rfl, sendFrame_none]
    rfl
  · rw [exec_wire hconf rfl, sendFrame_none]
    rfl
  · rw [exec_wire hconf rfl, sendFrame_some]
    rfl
  · rw [exec_wire hconf rfl, sendFrame_some]
    rfl

/-- Settles O13: the frames of the three commands with an address, written out. -/
theorem addressedWireCommandsSendOneFrame : Obligations.AddressedWireCommandsSendOneFrame := by
  intro s a n data hconf
  refine ⟨fun ab hab => ⟨?_, ?_⟩, ?_⟩
  · rw [exec_wire hconf (encode_pageProgram hab data), sendFrame_none]
    simp [frameEvents]
  · rw [exec_wire hconf (encode_dataRead hab n), sendFrame_some]
    simp [frameEvents]
  · rw [exec_wire hconf rfl, sendFrame_none]
    rfl

end Sys2Proof.Proofs.WireFrames

/-! What a host operation answers: its response, and the failure it stands for (R90, R93, R231, R237). -/

namespace Sys2Proof.Proofs.HostResponse

open Sys2Proof.Machine Sys2Proof.Safety Sys2Proof.Proofs.Invariant Sys2Proof.Proofs.EraseSteps

/-- READ inside the device, where it ends: one reading frame of the clamped length, and a response with the bytes it
read (R161). -/
theorem exec_read_next {a n : Word} {s t : State} (h : exec (.read a n) s = .next t) :
    (s.geo.totalSize.toNat ≤ a.toNat ∧ t = s.reject .range) ∨
    ∃ ab k, a.toNat < s.geo.totalSize.toNat ∧ k = clampedLength s.geo.totalSize.toNat a.toNat n.toNat ∧
      t = (s.emitted (frameEvents (s.params.cmdDataRead :: ab) [.rx (s.rxAnswer k)]) k).respond
        (BitVec.ofNat 32 k) (s.rxAnswer k) none := by
  obtain ⟨-, h⟩ := guarded_next h
  split at h
  next ha => cases h; exact .inl ⟨ha, rfl⟩
  next ha =>
    split at h <;> cases h
    rw [State.sendRead_emitted]
    exact .inr ⟨_, _, Nat.lt_of_not_le ha, rfl, rfl⟩

/-- READ answers as many bytes as it counts (R93, R162). -/
theorem exec_read_rdata {a n : Word} {s t : State} (h : exec (.read a n) s = .next t) :
    ∃ r, t.rsp = some r ∧ r.rdata.length = r.ret.toNat := by
  obtain ⟨-, rfl⟩ | ⟨ab, k, -, rfl, rfl⟩ := exec_read_next h
  · exact ⟨_, rfl, rfl⟩
  · exact ⟨_, rfl, by rw [State.rxAnswer_length, ReadClamp.toNat_ofNat_clampedLength]⟩

/-- Every host operation but READ answers without data (R93). -/
theorem exec_host_rdata {i : Instr} {s t : State} (hhost : i.isHost = true) (hread : ∀ a n, i ≠ .read a n)
    (h : exec i s = .next t) : ∃ r, t.rsp = some r ∧ r.rdata = [] := by
  cases i with
  | config =>
    rcases execConfig_next h with rfl | ⟨cp, -, -, rfl⟩
    · exact ⟨_, rfl, rfl⟩
    · exact ⟨_, rfl, rfl⟩
  | readStatus | setWren =>
    obtain ⟨-, h⟩ := guarded_next h
    cases h
    exact ⟨_, rfl, rfl⟩
  | readId =>
    obtain ⟨-, h⟩ := guarded_next h
    split at h <;> cases h
    exact ⟨_, rfl, rfl⟩
  | read a n => exact absurd rfl (hread a n)
  | writePage | write =>
    obtain ⟨-, h⟩ := guarded_next h
    split at h
    · obtain ⟨r, -, rfl⟩ := finishWrite_next h
      exact ⟨_, rfl, rfl⟩
    · cases h
  | eraseSector =>
    obtain ⟨es, n, ret, c, rfl⟩ := execEraseSector_next h
    exact ⟨_, rfl, rfl⟩
  | writeEnable | writeDisable | readStatus1 | pageProgram | sectorErase4kb | dataRead | jedecId => cases hhost

/-- Every host operation that ends is back in IDLE (R30). -/
theorem exec_host_phase {i : Instr} {s t : State} (hhost : i.isHost = true) (h : exec i s = .next t) :
    t.phase = .idle := by
  obtain ⟨c, slots, -, h⟩ | ⟨hwire, -⟩ | ⟨-, -, es, n, ret, d, cause, rfl⟩ := exec_next h
  · rcases execConfig_next h with rfl | ⟨cp, -, -, rfl⟩
    · rfl
    · rfl
  · exact absurd (hwire.symm.trans hhost) (by decide)
  · rfl

/-- Settles O57: READ alone puts data in its response. -/
theorem hostOperationRespondsInIdle : Obligations.HostOperationRespondsInIdle := by
  intro i s t hhost h
  refine ⟨exec_host_phase hhost h, fun hcs => exec_cs hcs h, ?_⟩
  by_cases hread : ∃ a n, i = .read a n
  · obtain ⟨a, n, rfl⟩ := hread
    obtain ⟨r, hr, hlen⟩ := exec_read_rdata h
    exact ⟨r, hr, .inl ⟨⟨a, n, rfl⟩, hlen⟩⟩
  · have hother : ∀ a n, i ≠ .read a n := fun a n hi => hread ⟨a, n, hi⟩
    obtain ⟨r, hr, hnil⟩ := exec_host_rdata hhost hother h
    exact ⟨r, hr, .inr ⟨hother, hnil⟩⟩

/-- ERASE_SECTOR records a failure only by a rejection: a Range error before any event, a timeout or a missing latch
after its frames (R216, R231). -/
theorem exec_eraseSector_cause {x : Word} {s t : State} {k : Failure} (h : exec (.eraseSector x) s = .next t)
    (hk : t.cause = some k) :
    (k = .range ∧ t = s.reject .range) ∨
    (((∃ p, k = .timeout p) ∨ k = .writeLatch) ∧ ∃ es n, t = (s.emitted es n).reject k) := by
  by_cases hx : s.params.sectorCount ≤ x.toNat
  · obtain rfl := execEraseSector_beyond hx h
    cases hk
    exact .inl ⟨rfl, rfl⟩
  refine .inr ?_
  obtain ⟨busy, n, -, ⟨-, rfl⟩ | ⟨-, ready, -, hrest⟩⟩ := execEraseSector_cases (Nat.lt_of_not_le hx) h
  case inl =>
    cases hk
    exact ⟨.inl ⟨_, rfl⟩, _, _, rfl⟩
  obtain ⟨st, ⟨-, rfl⟩ | ⟨-, hrest⟩⟩ := enableAndErase_cases hrest
  case inl =>
    cases hk
    exact ⟨.inr rfl, _, _, by rw [State.emitted_emitted]⟩
  obtain ⟨after, m, -, ⟨-, rfl⟩ | ⟨-, done, -, rfl⟩⟩ := eraseAndWait_cases hrest
  · cases hk
    exact ⟨.inl ⟨_, rfl⟩, _, _, by rw [State.emitted_emitted, State.emitted_emitted]⟩
  · cases hk

/-- WRITE_PAGE records a failure only by a rejection without events (R171, R231). -/
theorem exec_writePage_cause {a n : Word} {d : List Byte} {fq : Bool} {s t : State} {k : Failure}
    (h : exec (.writePage a d n fq) s = .next t) (hk : t.cause = some k) : k = .range ∧ t = s.reject .range := by
  obtain ⟨-, h⟩ := guarded_next h
  split at h
  · obtain ⟨r, hr, rfl⟩ := finishWrite_next h
    rcases writePageCall_next hr with rfl | ⟨ab, -, -, -, -, rfl⟩
    · cases hk
      exact ⟨rfl, rfl⟩
    · cases hk
  · cases h

/-- WRITE records no failure but a Range error (R188, R231). -/
theorem exec_write_cause {a n : Word} {d : List Byte} {s t : State} {k : Failure}
    (h : exec (.write a d n) s = .next t) (hk : t.cause = some k) : k = .range := by
  obtain ⟨-, h⟩ := guarded_next h
  split at h
  · obtain ⟨r, hr, rfl⟩ := finishWrite_next h
    obtain ⟨-, -, hcause | hcause⟩ := writeCall_next hr
    · exact absurd (hcause.symm.trans hk) nofun
    · exact Option.some.inj (hk.symm.trans hcause)
  · cases h

/-- Every failure of a host operation, once: a rejection by the operation that has this kind of failure, before any
event but for a wait or latch check of ERASE_SECTOR; or a Range error of WRITE, whose count stands (R231). -/
theorem exec_host_cause {i : Instr} {s t : State} {k : Failure} (hhost : i.isHost = true) (h : exec i s = .next t)
    (hk : t.cause = some k) :
    (i.isConfig = true ∧ k = .configuration ∧ t = s.reject k) ∨
    (((∃ a n, i = .read a n) ∨ (∃ a d n f, i = .writePage a d n f) ∨ ∃ x, i = .eraseSector x) ∧
      k = .range ∧ t = s.reject k) ∨
    ((∃ a d n, i = .write a d n) ∧ k = .range) ∨
    ((∃ x, i = .eraseSector x) ∧ ((∃ p, k = .timeout p) ∨ k = .writeLatch) ∧
      ∃ es n, t = (s.emitted es n).reject k) := by
  cases i with
  | config =>
    rcases execConfig_next h with rfl | ⟨cp, -, -, rfl⟩
    · cases hk
      exact .inl ⟨rfl, rfl, rfl⟩
    · cases hk
  | readStatus | setWren =>
    obtain ⟨-, h⟩ := guarded_next h
    cases h
    cases hk
  | readId =>
    obtain ⟨-, h⟩ := guarded_next h
    split at h <;> cases h
    cases hk
  | read a n =>
    obtain ⟨-, rfl⟩ | ⟨ab, m, -, -, rfl⟩ := exec_read_next h
    · cases hk
      exact .inr (.inl ⟨.inl ⟨a, n, rfl⟩, rfl, rfl⟩)
    · cases hk
  | writePage a d n f =>
    obtain ⟨rfl, rfl⟩ := exec_writePage_cause h hk
    exact .inr (.inl ⟨.inr (.inl ⟨a, d, n, f, rfl⟩), rfl, rfl⟩)
  | write a d n => exact .inr (.inr (.inl ⟨⟨a, d, n, rfl⟩, exec_write_cause h hk⟩))
  | eraseSector x =>
    obtain ⟨rfl, rfl⟩ | hlate := exec_eraseSector_cause h hk
    · exact .inr (.inl ⟨.inr (.inr ⟨x, rfl⟩), rfl, rfl⟩)
    · exact .inr (.inr (.inr ⟨⟨x, rfl⟩, hlate⟩))
  | writeEnable | writeDisable | readStatus1 | pageProgram | sectorErase4kb | dataRead | jedecId => cases hhost

/-- A failure leaves the control state: CONFIG fails by a rejection, and the others never write it (R237, R38). -/
theorem exec_host_cause_control {i : Instr} {s t : State} {k : Failure} (hhost : i.isHost = true)
    (h : exec i s = .next t) (hk : t.cause = some k) : controlState t = controlState s := by
  obtain ⟨-, -, -, hkeep⟩ := onlyConfigWritesControlState _ _ _ h
  obtain ⟨-, -, rfl⟩ | ⟨⟨_, _, rfl⟩ | ⟨_, _, _, _, rfl⟩ | ⟨_, rfl⟩, -⟩ | ⟨⟨_, _, _, rfl⟩, -⟩ | ⟨⟨_, rfl⟩, -⟩ :=
    exec_host_cause hhost h hk
  · rfl
  all_goals exact hkeep rfl

/-- Settles O58: each of the four kinds of failure that `exec_host_cause` tells apart, clause by clause. -/
theorem failureReturnsLeaveControlState : Obligations.FailureReturnsLeaveControlState := by
  intro i s t k hhost hcs h hk
  refine ⟨exec_host_cause_control hhost h hk, exec_host_phase hhost h, exec_cs hcs h, ?_⟩
  obtain ⟨hconfig, rfl, rfl⟩ | ⟨hop, rfl, rfl⟩ | ⟨hwrite, rfl⟩ | ⟨herase, hkind, es, n, rfl⟩ :=
    exec_host_cause hhost h hk
  · exact ⟨fun _ => hconfig, nofun, by simp, .inr ⟨_, rfl, rfl⟩, fun _ => .inr rfl⟩
  · refine ⟨nofun, fun _ => ?_, by simp, .inr ⟨_, rfl, rfl⟩, fun _ => .inr rfl⟩
    obtain hread | hpage | herase := hop
    · exact .inl hread
    · exact .inr (.inl hpage)
    · exact .inr (.inr (.inr herase))
  · exact ⟨nofun, fun _ => .inr (.inr (.inl hwrite)), by simp, .inl hwrite, fun _ => .inl hwrite⟩
  · refine ⟨?_, ?_, fun _ => herase, .inr ⟨_, rfl, rfl⟩, ?_⟩
    all_goals obtain ⟨p, rfl⟩ | rfl := hkind <;> simp

end Sys2Proof.Proofs.HostResponse

/-! Host operations keep the order conditions on program and erase frames: what each appends to the trace meets them
whatever stands before it (R171, R216). -/

namespace Sys2Proof.Proofs.WriteGuards

open Sys2Proof.Machine Sys2Proof.Safety Sys2Proof.Proofs.EraseSteps Sys2Proof.Proofs.HostResponse

/-- A byte or an answer is inside a frame and leaves the bus in it (R100). -/
theorem busStep_inside {p : Params} {e : Event} {pos pos' : BusPos} (he : (∃ b, e = .tx b) ∨ ∃ v, e = .rx v)
    (h : busStep p pos e = some pos') : pos ≠ .idle ∧ pos' ≠ .idle := by
  obtain ⟨b, rfl⟩ | ⟨v, rfl⟩ := he
  · cases pos
    case opened =>
      simp only [busStep] at h
      split_ifs at h
      cases h
      exact ⟨nofun, nofun⟩
    all_goals cases h
    exact ⟨nofun, nofun⟩
  · cases pos <;> cases h
    exact ⟨nofun, nofun⟩

/-- Asserting, deasserting and delaying, by where the bus is before and after (R61). -/
theorem busStep_level {p : Params} {pos pos' : BusPos} :
    (busStep p pos (.cs true) = some pos' → pos = .idle ∧ pos' ≠ .idle) ∧
    (busStep p pos (.cs false) = some pos' → pos ≠ .idle ∧ pos' = .idle) ∧
    ∀ t, busStep p pos (.delay t) = some pos' → pos = .idle ∧ pos' = .idle := by
  refine ⟨fun h => ?_, fun h => ?_, fun t h => ?_⟩
  · cases pos <;> cases h
    exact ⟨rfl, nofun⟩
  · cases pos <;> cases h
    · exact ⟨nofun, rfl⟩
    · exact ⟨nofun, rfl⟩
  · cases pos <;> cases h
    exact ⟨rfl, rfl⟩

/-- One disciplined event gives at most one item, and a frame is open after it exactly when the bus is in one. -/
theorem itemsFrom_cons_of_busStep {p : Params} {e : Event} {pos pos' : BusPos} {o : Option FrameSeen}
    (hpos : pos = .idle ↔ o = none) (h : busStep p pos e = some pos') :
    ∃ is o', (pos' = .idle ↔ o' = none) ∧ ∀ rest, itemsFrom o (e :: rest) = is ++ itemsFrom o' rest := by
  obtain ⟨hassert, hdeassert, hdelay⟩ := @busStep_level p pos pos'
  cases e with
  | cs asserted =>
    cases asserted with
    | true =>
      obtain ⟨hidle, hin⟩ := hassert h
      obtain rfl := hpos.1 hidle
      exact ⟨[], some _, by simp [hin], fun _ => rfl⟩
    | false =>
      obtain ⟨hin, hidle⟩ := hdeassert h
      obtain ⟨f, rfl⟩ := Option.ne_none_iff_exists'.1 (mt hpos.2 hin)
      exact ⟨[.frame f], none, by simp [hidle], fun _ => rfl⟩
  | delay t =>
    obtain ⟨hidle, hidle'⟩ := hdelay t h
    obtain rfl := hpos.1 hidle
    exact ⟨[.delay t], none, by simp [hidle'], fun _ => rfl⟩
  | tx b =>
    obtain ⟨hin, hin'⟩ := busStep_inside (.inl ⟨b, rfl⟩) h
    obtain ⟨f, rfl⟩ := Option.ne_none_iff_exists'.1 (mt hpos.2 hin)
    exact ⟨[], some _, by simp [hin'], fun _ => rfl⟩
  | rx v =>
    obtain ⟨hin, hin'⟩ := busStep_inside (.inr ⟨v, rfl⟩) h
    obtain ⟨f, rfl⟩ := Option.ne_none_iff_exists'.1 (mt hpos.2 hin)
    exact ⟨[], some _, by simp [hin'], fun _ => rfl⟩

/-- The items of disciplined events that end outside a frame are not touched by what is appended: the frame that is open
at the start, if any, is closed inside them. -/
theorem itemsFrom_append {p : Params} {es : List Event} {pos : BusPos} {o : Option FrameSeen}
    (hpos : pos = .idle ↔ o = none) (h : busRun p pos es = some .idle) (es' : List Event) :
    itemsFrom o (es ++ es') = itemsFrom o es ++ items es' := by
  induction es generalizing pos o with
  | nil =>
    cases h
    rw [hpos.1 rfl]
    rfl
  | cons e es ih =>
    simp only [busRun] at h
    split at h
    next pos' hstep =>
      obtain ⟨is, o', hpos', hitems⟩ := itemsFrom_cons_of_busStep hpos hstep
      rw [List.cons_append, hitems, hitems, ih hpos' h, List.append_assoc]
    next => cases h

/-- The items of disciplined events and of what is appended to them. -/
theorem items_append {p : Params} {es : List Event} (h : Disciplined p es) (es' : List Event) :
    items (es ++ es') = items es ++ items es' :=
  itemsFrom_append (by simp) h es'

/-- Items that may follow anything may follow the items that meet the conditions. -/
theorem guardedFrom_append {p : Params} {xs ys : List Item} {older newer : Option Item}
    (hxs : guardedFrom p older newer xs = true) (hys : ∀ older newer, guardedFrom p older newer ys = true) :
    guardedFrom p older newer (xs ++ ys) = true := by
  induction xs generalizing older newer with
  | nil => exact hys older newer
  | cons x xs ih =>
    obtain ⟨hx, hrest⟩ := Bool.and_eq_true_iff.1 hxs
    exact Bool.and_eq_true_iff.2 ⟨hx, ih hrest⟩

/-- Events that meet the bus discipline and the order conditions whatever stands before them. -/
def SelfGuarded (p : Params) (es : List Event) : Prop :=
  Disciplined p es ∧ ∀ older newer, guardedFrom p older newer (items es) = true

theorem SelfGuarded.append {p : Params} {es es' : List Event} (h : SelfGuarded p es) (h' : SelfGuarded p es') :
    SelfGuarded p (es ++ es') := by
  obtain ⟨hd, hg⟩ := h
  obtain ⟨hd', hg'⟩ := h'
  refine ⟨hd.append hd', fun older newer => ?_⟩
  rw [items_append hd]
  exact guardedFrom_append (hg older newer) hg'

theorem selfGuarded_nil (p : Params) : SelfGuarded p [] :=
  ⟨rfl, fun _ _ => rfl⟩

theorem selfGuarded_delay (p : Params) (t : Nat) : SelfGuarded p [.delay t] :=
  ⟨rfl, fun _ _ => rfl⟩

/-- A command byte that neither programs nor erases: the conditions do not speak of its frames. -/
def IsPlain (p : Params) (cmd : Byte) : Prop :=
  cmd ∈ p.commands ∧ cmd ≠ p.cmdPageProgram ∧ cmd ≠ p.cmdSectorErase

/-- When the seven differ, five of them are plain (R101). -/
theorem isPlain_of_nodup {p : Params} (h : p.commands.Nodup) :
    IsPlain p p.cmdWriteEnable ∧ IsPlain p p.cmdWriteDisable ∧ IsPlain p p.cmdReadStatus1 ∧ IsPlain p p.cmdDataRead ∧
      IsPlain p p.cmdJedecId := by
  simp only [Params.commands, List.nodup_cons, List.mem_cons, List.not_mem_nil, or_false, not_or] at h
  simp [IsPlain, Params.commands, Ne.symm, h]

theorem program_ne_erase_of_nodup {p : Params} (h : p.commands.Nodup) : p.cmdPageProgram ≠ p.cmdSectorErase := by
  simp only [Params.commands, List.nodup_cons, List.mem_cons, not_or] at h
  obtain ⟨-, -, -, ⟨hne, -⟩, -⟩ := h
  exact hne

/-- The frame of a plain command may stand anywhere. -/
theorem mayFollow_plain {p : Params} {cmd : Byte} (h : IsPlain p cmd) (rest : List Byte) (got : Option (List Byte))
    (older newer : Option Item) : mayFollow p older newer (.frame { sent := cmd :: rest, got := got }) = true := by
  obtain ⟨-, hprogram, herase⟩ := h
  simp [mayFollow, Item.hasCommand, hprogram, herase]

theorem selfGuarded_frame {p : Params} {cmd : Byte} (h : IsPlain p cmd) (rest : List Byte) :
    SelfGuarded p (frameEvents (cmd :: rest)) := by
  have hitems := items_frame (cmd :: rest) []
  rw [List.append_nil] at hitems
  refine ⟨disciplined_frame h.1 rest, fun older newer => ?_⟩
  rw [hitems]
  exact Bool.and_eq_true_iff.2 ⟨mayFollow_plain h rest _ _ _, rfl⟩

theorem selfGuarded_read {p : Params} {cmd : Byte} (h : IsPlain p cmd) (rest v : List Byte) :
    SelfGuarded p (frameEvents (cmd :: rest) [.rx v]) := by
  have hitems := items_read (cmd :: rest) v []
  rw [List.append_nil] at hitems
  refine ⟨disciplined_read h.1 rest v, fun older newer => ?_⟩
  rw [hitems]
  exact Bool.and_eq_true_iff.2 ⟨mayFollow_plain h rest _ _ _, rfl⟩

/-- The busy polls of a wait may stand anywhere (R201). -/
theorem selfGuarded_busyPolls {p : Params} (h : IsPlain p p.cmdReadStatus1) (raws : List Byte) :
    SelfGuarded p (busyPolls p raws) := by
  induction raws with
  | nil => exact selfGuarded_nil p
  | cons raw raws ih => exact ((selfGuarded_read h [] [raw]).append (selfGuarded_delay p _)).append ih

/-- A program frame may stand after the write-enable frame and the latch delay (R171). -/
theorem mayFollow_program {p : Params} (h : p.commands.Nodup) (sent : List Byte) (got : Option (List Byte)) :
    mayFollow p (some (enableItem p)) (some (.delay p.tLatch))
      (.frame { sent := p.cmdPageProgram :: sent, got := got }) = true := by
  simp [mayFollow, Item.hasCommand, program_ne_erase_of_nodup h]

/-- An erase frame may stand after the write-enable frame and a status frame that shows the latch (R216). -/
theorem mayFollow_erase {p : Params} (h : p.commands.Nodup) {st : Byte} (hst : rawLatched p st = true)
    (sent : List Byte) (got : Option (List Byte)) :
    mayFollow p (some (enableItem p)) (some (.frame { sent := [p.cmdReadStatus1], got := some [st] }))
      (.frame { sent := p.cmdSectorErase :: sent, got := got }) = true := by
  have hlatch : isWriteEnabled p (statusMask p st) = true := hst
  simp [mayFollow, Item.hasCommand, Item.latchSeen, (program_ne_erase_of_nodup h).symm, hlatch]

/-- An accepted page write brings the write-enable frame and the latch delay that its program frame needs (R171). -/
theorem selfGuarded_program {p : Params} (h : p.commands.Nodup) (ab data : List Byte) (fq : Bool) :
    SelfGuarded p (programEvents p ab data fq) := by
  obtain ⟨henable, -⟩ := isPlain_of_nodup h
  have hitems := items_program p ab data fq []
  rw [List.append_nil] at hitems
  refine ⟨disciplined_program p ab data fq, fun older newer => ?_⟩
  have hframe : mayFollow p older newer (enableItem p) = true := mayFollow_plain henable _ _ _ _
  have hdelay : ∀ o n t, mayFollow p o n (.delay t) = true := fun _ _ _ => rfl
  rw [hitems]
  cases fq <;> simp [guardedFrom, hframe, hdelay, mayFollow_program h]

/-- Steps 3 to 5 of ERASE_SECTOR bring the write-enable frame and the status frame that its erase frame needs (R216). -/
theorem selfGuarded_enableAndErase {p : Params} (h : p.commands.Nodup) {st : Byte} (hst : rawLatched p st = true)
    (x : Nat) : SelfGuarded p (enableEvents p st ++ eraseEvents p x) := by
  obtain ⟨henable, -, hstatus, -⟩ := isPlain_of_nodup h
  have hitems : items (enableEvents p st ++ eraseEvents p x) =
      [enableItem p, .frame { sent := [p.cmdReadStatus1], got := some [st] },
        .frame { sent := p.cmdSectorErase :: addressBytes24 (sectorAddress p x), got := none }] := by
    have herase := items_frame (p.cmdSectorErase :: addressBytes24 (sectorAddress p x)) []
    rw [List.append_nil] at herase
    rw [enableEvents, List.append_assoc, items_frame, items_poll, eraseEvents, herase]
    rfl
  refine ⟨((disciplined_frame henable.1 []).append (disciplined_poll p st)).append (disciplined_erase p x),
    fun older newer => ?_⟩
  have hframe : mayFollow p older newer (enableItem p) = true := mayFollow_plain henable _ _ _ _
  rw [hitems]
  simp [guardedFrom, hframe, mayFollow_plain hstatus, mayFollow_erase h hst]

/-- `t` has the trace of `s` and then events that meet the order conditions whatever stands before them. -/
def AppendsGuarded (s t : State) : Prop :=
  ∃ es, t.trace = s.trace ++ es ∧ SelfGuarded s.params es

theorem AppendsGuarded.refl (s : State) : AppendsGuarded s s :=
  ⟨[], by simp, selfGuarded_nil _⟩

section

variable {s t : State} (h : s.params.commands.Nodup)
include h

theorem writePageCall_appendsGuarded {a n : Nat} {d : List Byte} {fq : Bool} {r : WriteDone}
    (hr : writePageCall a d n fq s = .next r) : r.state.params = s.params ∧ AppendsGuarded s r.state := by
  rcases writePageCall_next hr with rfl | ⟨ab, -, -, -, -, rfl⟩
  · exact ⟨rfl, .refl s⟩
  · exact ⟨rfl, _, rfl, selfGuarded_program h ab _ fq⟩

/-- Each page write of the chunk loop brings its own write-enable frame and delay (R186). -/
theorem writeLoop_appendsGuarded {P fuel addr off rem total : Nat} {d : List Byte} {r : WriteDone}
    (hr : writeLoop P d fuel addr off rem total s = .next r) : AppendsGuarded s r.state := by
  induction fuel generalizing addr off rem total s with
  | zero => cases hr; exact .refl s
  | succ fuel ih =>
    simp only [writeLoop] at hr
    split at hr
    · cases hr; exact .refl s
    · split at hr
      next c hc =>
        obtain ⟨hp, hchunk⟩ := writePageCall_appendsGuarded h hc
        split at hr
        · cases hr; exact hchunk
        · obtain ⟨es, he, hes⟩ := hchunk
          obtain ⟨es', he', hes'⟩ := ih (hp ▸ h) hr
          exact ⟨es ++ es', by rw [he', he, List.append_assoc], hes.append (hp ▸ hes')⟩
      all_goals cases hr

theorem writeCall_appendsGuarded {a n : Nat} {d : List Byte} {r : WriteDone} (hr : writeCall a d n s = .next r) :
    AppendsGuarded s r.state := by
  simp only [writeCall] at hr
  split at hr
  · cases hr
  · split at hr
    · exact (writePageCall_appendsGuarded h hr).2
    · exact writeLoop_appendsGuarded h hr

/-- Wherever ERASE_SECTOR ends, an erase frame among its events has its write-enable and latch check before it
(R216). -/
theorem exec_eraseSector_appendsGuarded {x : Word} (he : exec (.eraseSector x) s = .next t) : AppendsGuarded s t := by
  obtain ⟨henable, -, hstatus, -⟩ := isPlain_of_nodup h
  have hpoll : ∀ raw, SelfGuarded s.params (pollEvents s.params raw) := fun raw => selfGuarded_read hstatus [] [raw]
  have hpolls := selfGuarded_busyPolls hstatus
  by_cases hx : s.params.sectorCount ≤ x.toNat
  · rw [execEraseSector_beyond hx he]
    exact .refl s
  obtain ⟨busy, n, -, ⟨-, rfl⟩ | ⟨-, ready, -, hrest⟩⟩ := execEraseSector_cases (Nat.lt_of_not_le hx) he
  case inl => exact ⟨_, rfl, hpolls busy⟩
  have hready := (hpolls busy).append (hpoll ready)
  obtain ⟨st, ⟨-, rfl⟩ | ⟨hst, hrest⟩⟩ := enableAndErase_cases hrest
  case inl =>
    exact ⟨_, List.append_assoc _ _ _, hready.append ((selfGuarded_frame henable []).append (hpoll st))⟩
  have herase := hready.append (selfGuarded_enableAndErase h hst x.toNat)
  obtain ⟨after, m, -, ⟨-, rfl⟩ | ⟨-, done, -, rfl⟩⟩ := eraseAndWait_cases hrest
  · exact ⟨_, by simp, herase.append (hpolls after)⟩
  · exact ⟨_, by simp, herase.append ((hpolls after).append (hpoll done))⟩

/-- Every host operation appends events that meet the order conditions by themselves. -/
theorem exec_host_appendsGuarded {i : Instr} (hhost : i.isHost = true) (he : exec i s = .next t) :
    AppendsGuarded s t := by
  obtain ⟨henable, hdisable, hstatus, hread, hid⟩ := isPlain_of_nodup h
  cases i with
  | config =>
    rcases execConfig_next he with rfl | ⟨c, -, -, rfl⟩
    · exact .refl s
    · exact ⟨[], by simp, selfGuarded_nil _⟩
  | readStatus =>
    obtain ⟨-, he⟩ := guarded_next he
    cases he
    rw [State.readStatusFrame_emitted]
    exact ⟨_, rfl, selfGuarded_read hstatus [] _⟩
  | readId =>
    obtain ⟨-, he⟩ := guarded_next he
    split at he <;> cases he
    rw [State.sendRead_emitted]
    exact ⟨_, rfl, selfGuarded_read hid [] _⟩
  | setWren enable =>
    obtain ⟨-, he⟩ := guarded_next he
    cases he
    rw [State.setWrenFrame_emitted]
    cases enable
    · exact ⟨_, rfl, selfGuarded_frame hdisable []⟩
    · exact ⟨_, rfl, selfGuarded_frame henable []⟩
  | read a n =>
    obtain ⟨-, rfl⟩ | ⟨ab, k, -, -, rfl⟩ := exec_read_next he
    · exact .refl s
    · exact ⟨_, rfl, selfGuarded_read hread ab _⟩
  | writePage a d n fq =>
    obtain ⟨-, he⟩ := guarded_next he
    split at he
    · obtain ⟨r, hr, rfl⟩ := finishWrite_next he
      exact (writePageCall_appendsGuarded h hr).2
    · cases he
  | write a d n =>
    obtain ⟨-, he⟩ := guarded_next he
    split at he
    · obtain ⟨r, hr, rfl⟩ := finishWrite_next he
      exact writeCall_appendsGuarded h hr
    · cases he
  | eraseSector x => exact exec_eraseSector_appendsGuarded h he
  | writeEnable | writeDisable | readStatus1 | pageProgram | sectorErase4kb | dataRead | jedecId => cases hhost

end

/-- A request decodes to a host operation (R91). -/
theorem isHost_of_decodeRequest {r : HostReq} {i : Instr} (h : decodeRequest r = .ok i) : i.isHost = true := by
  simp only [decodeRequest] at h
  split_ifs at h <;> cases h <;> rfl

/-- Settles O56: in IDLE a step runs a host operation, whose events meet the conditions after any trace. -/
theorem hostStepsKeepWriteGuards : Obligations.HostStepsKeepWriteGuards := by
  intro s t hinv hidle hguard h
  obtain ⟨hnodup, -⟩ := hinv.params_coherent
  obtain ⟨-, -, rfl⟩ | ⟨hrun, -⟩ | ⟨r, rest, i, -, -, hdecode, h⟩ | ⟨f, rest, i, hrun, -⟩ := step_next h
  · exact hguard
  · exact absurd (hidle.symm.trans hrun) nofun
  · obtain ⟨hp, -⟩ := Invariant.onlyConfigWritesControlState _ _ _ h
    obtain ⟨es, htrace, -, hes⟩ :=
      exec_host_appendsGuarded (s := s.takeRequest rest) hnodup (isHost_of_decodeRequest hdecode) h
    rw [WriteGuarded, hp, htrace]
    simp only [State.takeRequest_trace, State.takeRequest_params] at hes ⊢
    rw [items_append hinv.disciplined]
    exact guardedFrom_append hguard hes
  · exact absurd (hidle.symm.trans hrun) nofun

end Sys2Proof.Proofs.WriteGuards

/-! WAIT_READY and ERASE_SECTOR from what the chip answers: the whole next state on each path (R201, R216). -/

namespace Sys2Proof.Proofs.EraseOutcome

open Sys2Proof.Machine Sys2Proof.Safety Sys2Proof.Proofs.EraseSteps

/-- More answers begin with the first ones. -/
theorem rxAnswer_add (s : State) (m n : Nat) : s.rxAnswer (m + n) = s.rxAnswer m ++ (s.rxConsume m).rxAnswer n :=
  s.rxAnswer_emitted [] m n

/-- Answers known in two parts are the answers before and after the first part was used. -/
theorem rxAnswer_split {s : State} {xs ys : List Byte} {n : Nat} (h : s.rxAnswer (xs.length + n) = xs ++ ys) :
    s.rxAnswer xs.length = xs ∧ ∀ es, (s.emitted es xs.length).rxAnswer n = ys := by
  have hparts : ∀ es, s.rxAnswer xs.length = xs ∧ (s.emitted es xs.length).rxAnswer n = ys := fun es =>
    List.append_inj ((s.rxAnswer_emitted es xs.length n).symm.trans h) (s.rxAnswer_length _)
  exact ⟨(hparts []).1, fun es => (hparts es).2⟩

/-- The busy polls of a wait are the answers up to the first that reads ready. -/
theorem takeWhile_rxAnswer {s : State} {T : Nat} {busy : List Byte} {raw : Byte} (hT : busy.length < T)
    (ha : s.rxAnswer (busy.length + 1) = busy ++ [raw]) (hbusy : ∀ b ∈ busy, rawBusy s.params b = true)
    (hraw : rawBusy s.params raw = false) : (s.rxAnswer T).takeWhile (rawBusy s.params) = busy := by
  obtain ⟨k, rfl⟩ := Nat.exists_eq_add_of_lt hT
  rw [Nat.add_right_comm, rxAnswer_add, ha, List.append_assoc, List.takeWhile_append_of_pos hbusy]
  simp [hraw]

/-- A wait ends ready at the first poll that reads ready, if that is within its budget (R201, R202). -/
theorem waitReady_ready {s : State} {T : Nat} {busy : List Byte} {raw : Byte} (hT : busy.length < T)
    (ha : s.rxAnswer (busy.length + 1) = busy ++ [raw]) (hbusy : ∀ b ∈ busy, rawBusy s.params b = true)
    (hraw : rawBusy s.params raw = false) :
    waitReady T s = (true, s.emitted (busyPolls s.params busy ++ pollEvents s.params raw) (busy.length + 1)) := by
  have hfirst := takeWhile_rxAnswer hT ha hbusy hraw
  rcases waitReady_cases T s with ⟨busy', raw', hT', ha', hbusy', hraw', e⟩ | ⟨hall, -⟩
  · obtain rfl : busy' = busy := (takeWhile_rxAnswer hT' ha' hbusy' hraw').symm.trans hfirst
    obtain rfl : raw' = raw := by simpa using ha'.symm.trans ha
    exact e
  · rw [List.takeWhile_eq_self_iff.2 hall] at hfirst
    exact absurd ((s.rxAnswer_length T).symm.trans (congrArg List.length hfirst)) hT.ne'

/-- A wait whose whole budget of polls reads busy times out (R201, R202). -/
theorem waitReady_timeout {s : State} {T : Nat} (hall : ∀ b ∈ s.rxAnswer T, rawBusy s.params b = true) :
    waitReady T s = (false, s.emitted (busyPolls s.params (s.rxAnswer T)) T) := by
  rcases waitReady_cases T s with ⟨busy, raw, hT, ha, hbusy, hraw, -⟩ | ⟨-, e⟩
  · have hfirst := takeWhile_rxAnswer hT ha hbusy hraw
    rw [List.takeWhile_eq_self_iff.2 hall] at hfirst
    exact absurd ((s.rxAnswer_length T).symm.trans (congrArg List.length hfirst)) hT.ne'
  · exact e

/-- With chip-select deasserted, emitting changes the trace and the oracle alone. -/
theorem emitted_of_cs {s : State} (h : s.cs = false) (es : List Event) (n : Nat) :
    s.emitted es n =
      { s with trace := s.trace ++ es, rxIn := s.rxIn.drop n, rxFree := s.rxFree + (n - s.rxIn.length) } := by
  simp [State.emitted, h]

/-- Settles O44: the two ends of a wait as whole next states. -/
theorem waitReadyCountsPolls : Obligations.WaitReadyCountsPolls := by
  intro T s hcs
  refine ⟨fun busy raw hT ha hbusy hraw => ?_, fun hall => ?_⟩
  · rw [waitReady_ready hT ha hbusy hraw, emitted_of_cs hcs, List.append_assoc]
  · rw [waitReady_timeout hall, emitted_of_cs hcs]

/-- Settles O45: the range check comes before any event. -/
theorem eraseBeyondSectorCountRejected : Obligations.EraseBeyondSectorCountRejected := by
  intro s x hconf hx
  simp only [exec, execEraseSector, guarded_of_configured hconf, if_pos hx]
  rfl

/-- Settles O46: the first wait times out, and its timeout is all there is. -/
theorem eraseFirstWaitTimesOut : Obligations.EraseFirstWaitTimesOut := by
  intro s x hconf hcs hx hall
  have h := execEraseSector_timeout hconf hx (waitReady_timeout hall)
  rw [emitted_of_cs hcs] at h
  exact h

/-- ERASE_SECTOR whose first wait ends ready goes on with steps 3 to 6 after its polls (R216). -/
theorem exec_eraseSector_ready {s : State} {x : Word} {busy : List Byte} {ready : Byte} (hconf : s.configured = true)
    (hx : x.toNat < s.params.sectorCount) (hT : busy.length < s.params.tErasePre)
    (ha : s.rxAnswer (busy.length + 1) = busy ++ [ready]) (hbusy : ∀ b ∈ busy, rawBusy s.params b = true)
    (hready : rawBusy s.params ready = false) :
    exec (.eraseSector x) s = .next (enableAndErase x.toNat
      (s.emitted (busyPolls s.params busy ++ pollEvents s.params ready) (busy.length + 1))) :=
  execEraseSector_ready hconf hx (waitReady_ready hT ha hbusy hready)

/-- The events of ERASE_SECTOR up to its latch check: the first wait, write-enable, and the status read (R216). -/
def checkedEvents (p : Params) (busy : List Byte) (ready st : Byte) : List Event :=
  busyPolls p busy ++ pollEvents p ready ++ frameEvents [p.cmdWriteEnable] ++ pollEvents p st

/-- The state of ERASE_SECTOR at its latch check. -/
def checkedState (s : State) (busy : List Byte) (ready st : Byte) : State :=
  s.emitted (checkedEvents s.params busy ready st) (busy.length + 2)

/-- Answers that take ERASE_SECTOR past its first wait to its latch check. -/
structure ReachesCheck (s : State) (x : Word) (busy : List Byte) (ready st : Byte) : Prop where
  configured : s.configured = true
  inRange : x.toNat < s.params.sectorCount
  budget : busy.length < s.params.tErasePre
  answer : s.rxAnswer (busy.length + 2) = busy ++ [ready, st]
  busy : ∀ b ∈ busy, rawBusy s.params b = true
  ready : rawBusy s.params ready = false

/-- At the latch check the next answer decides: steps 5 and 6 follow, or the operation ends (R216 step 4). -/
theorem ReachesCheck.exec_eq {s : State} {x : Word} {busy : List Byte} {ready st : Byte}
    (h : ReachesCheck s x busy ready st) :
    exec (.eraseSector x) s = .next (
      if rawLatched s.params st then eraseAndWait x.toNat (checkedState s busy ready st)
      else (checkedState s busy ready st).reject .writeLatch) := by
  have hanswer : s.rxAnswer ((busy ++ [ready]).length + 1) = (busy ++ [ready]) ++ [st] := by simpa using h.answer
  obtain ⟨hfirst, hst⟩ := rxAnswer_split hanswer
  rw [List.length_append, List.length_singleton] at hfirst hst
  rw [exec_eraseSector_ready h.configured h.inRange h.budget hfirst h.busy h.ready]
  generalize hwait : busyPolls s.params busy ++ pollEvents s.params ready = wait
  have hlatch : ((s.emitted wait (busy.length + 1)).rxAnswer 1).headD 0#8 = st := by rw [hst]; rfl
  have hstate : (s.emitted wait (busy.length + 1)).emitted
      (frameEvents [s.params.cmdWriteEnable] ++ pollEvents s.params st) 1 = checkedState s busy ready st := by
    rw [State.emitted_emitted, checkedState, checkedEvents, hwait, List.append_assoc]
  split
  next hlatched => rw [enableAndErase_latched (by rw [hlatch]; exact hlatched), hlatch, ← hstate]; rfl
  next hlatched =>
    rw [enableAndErase_unlatched (by rw [hlatch]; simpa using hlatched), hlatch, ← hstate]; rfl

/-- Settles O47: the check fails, and its rejection is all that follows. -/
theorem eraseLatchCheckFails : Obligations.EraseLatchCheckFails := by
  intro s x busy ready st hconf hcs hx hT ha hbusy hready hst
  rw [ReachesCheck.exec_eq ⟨hconf, hx, hT, ha, hbusy, hready⟩, hst, checkedState, emitted_of_cs hcs]
  rfl

/-- The answers to the second wait are those after the latch check's, since the erase frame reads nothing (R216). -/
theorem rxAnswer_afterErase {s : State} {busy rest : List Byte} {ready st : Byte} {n : Nat}
    (h : s.rxAnswer (busy.length + 2 + n) = busy ++ [ready, st] ++ rest) (x : Nat) :
    s.rxAnswer (busy.length + 2) = busy ++ [ready, st] ∧
      ((checkedState s busy ready st).emitted (eraseEvents s.params x) 0).rxAnswer n = rest := by
  have hanswer : s.rxAnswer ((busy ++ [ready, st]).length + n) = (busy ++ [ready, st]) ++ rest := by
    rw [List.length_append]
    exact h
  obtain ⟨hfirst, hrest⟩ := rxAnswer_split hanswer
  rw [List.length_append] at hfirst hrest
  exact ⟨hfirst, (State.rxAnswer_emitted_zero _ _ _).trans (hrest _)⟩

/-- Settles O48: past the check the erase frame is sent, and the second wait times out. -/
theorem eraseSecondWaitTimesOut : Obligations.EraseSecondWaitTimesOut := by
  intro s x busy after ready st hconf hcs hx hT hlen ha hbusy hready hst hafter
  obtain ⟨hfirst, hpolls⟩ := rxAnswer_afterErase ha x.toNat
  have hwait := waitReady_timeout (hpolls.symm ▸ hafter)
  rw [hpolls, hlen] at hwait
  rw [ReachesCheck.exec_eq ⟨hconf, hx, hT, hfirst, hbusy, hready⟩, hst, if_pos rfl, eraseAndWait_timeout hwait,
    checkedState, State.emitted_emitted, emitted_of_cs hcs, hlen]
  simp [State.reject, State.respond, checkedEvents, eraseEvents, sectorAddress]

/-- Settles O49: past the check the erase frame is sent, and the second wait ends ready. -/
theorem eraseSucceedsInOrder : Obligations.EraseSucceedsInOrder := by
  intro s x busy after ready st done hconf hcs hx hT hT' ha hbusy hready hst hafter hdone
  rw [Nat.add_assoc, List.append_assoc] at ha
  obtain ⟨hfirst, hpolls⟩ := rxAnswer_afterErase ha x.toNat
  have hwait := waitReady_ready hT' hpolls hafter hdone
  rw [ReachesCheck.exec_eq ⟨hconf, hx, hT, hfirst, hbusy, hready⟩, hst, if_pos rfl, eraseAndWait_ready hwait,
    checkedState, State.emitted_emitted, emitted_of_cs hcs, Nat.add_assoc _ after.length 1]
  simp [State.respond, checkedEvents, eraseEvents, sectorAddress]

/-- In a configured machine ERASE_SECTOR always ends: each of its steps answers a state (R204, R221). -/
theorem exists_exec_eraseSector {s : State} (hconf : s.configured = true) (x : Word) :
    ∃ t, exec (.eraseSector x) s = .next t := by
  simp only [exec, execEraseSector, guarded_of_configured hconf]
  split
  · exact ⟨_, rfl⟩
  · exact ⟨_, rfl⟩

/-- A busy poll and its delay are five events (R201). -/
theorem busyPolls_length (p : Params) (raws : List Byte) : (busyPolls p raws).length = 5 * raws.length := by
  induction raws with
  | nil => rfl
  | cons raw raws ih =>
    have hcons : busyPolls p (raw :: raws) = (pollEvents p raw ++ [.delay p.tPoll]) ++ busyPolls p raws := rfl
    have hpoll : (pollEvents p raw ++ [Event.delay p.tPoll]).length = 5 := rfl
    rw [hcons, List.length_append, hpoll, ih, List.length_cons]
    omega

/-- Settles O52: by where it ends, the events are those of the polls within the budgets and of at most three more
frames. -/
theorem eraseReturnsWithinBudget : Obligations.EraseReturnsWithinBudget := by
  intro s x hconf
  obtain ⟨t, ht⟩ := exists_exec_eraseSector hconf x
  refine ⟨t, ht, ?_⟩
  by_cases hx : s.params.sectorCount ≤ x.toNat
  · rw [execEraseSector_beyond hx ht, State.reject_trace]
    omega
  have hpoll : ∀ raw, (pollEvents s.params raw).length = 4 := fun _ => rfl
  have henable : ∀ st, (enableEvents s.params st).length = 7 := fun _ => rfl
  have herase : (eraseEvents s.params x.toNat).length = 6 := rfl
  obtain ⟨busy, n, -, ⟨hpre, rfl⟩ | ⟨hpre, ready, -, hrest⟩⟩ := execEraseSector_cases (Nat.lt_of_not_le hx) ht
  case inl =>
    simp only [State.reject_trace, State.emitted_trace, List.length_append, busyPolls_length]
    omega
  obtain ⟨st, ⟨-, rfl⟩ | ⟨-, hrest⟩⟩ := enableAndErase_cases hrest
  case inl =>
    simp only [State.reject_trace, State.emitted_trace, State.emitted_params, List.length_append, busyPolls_length,
      hpoll, henable]
    omega
  obtain ⟨after, m, -, ⟨hpost, rfl⟩ | ⟨hpost, done, -, rfl⟩⟩ := eraseAndWait_cases hrest
  · simp only [State.reject_trace, State.emitted_trace, State.emitted_params, List.length_append, busyPolls_length,
      hpoll, henable, herase] at hpost ⊢
    omega
  · simp only [State.respond_trace, State.emitted_trace, State.emitted_params, List.length_append, busyPolls_length,
      hpoll, henable, herase] at hpost ⊢
    omega

end Sys2Proof.Proofs.EraseOutcome

/-! What an operation does not read: ERASE_SECTOR no geometry, the writing operations no answer of the chip
(R33, R108, R170, R192, R215). -/

namespace Sys2Proof.Proofs.NonInterference

open Sys2Proof.Machine Sys2Proof.Safety Sys2Proof.Proofs.EraseOutcome

/-- The state with other geometry registers. -/
def withGeo (g : Geometry) (s : State) : State :=
  { s with geo := g }

/-- A wait reads no geometry: the answers alone say where it ends (R201). -/
theorem waitReady_withGeo (g : Geometry) (T : Nat) (s : State) :
    waitReady T (withGeo g s) = ((waitReady T s).1, withGeo g (waitReady T s).2) := by
  rcases waitReady_cases T s with ⟨busy, raw, hT, ha, hbusy, hraw, e⟩ | ⟨hall, e⟩ <;> rw [e]
  · exact waitReady_ready (s := withGeo g s) hT ha hbusy hraw
  · exact waitReady_timeout (s := withGeo g s) hall

/-- Steps 5 and 6 of ERASE_SECTOR read no geometry: the erase frame has three address bytes at any width (R108). -/
theorem eraseAndWait_withGeo (g : Geometry) (x : Nat) (s : State) :
    eraseAndWait x (withGeo g s) = withGeo g (eraseAndWait x s) := by
  have hframe : (withGeo g s).eraseFrame x = withGeo g (s.eraseFrame x) := by
    simp only [State.eraseFrame, State.sendHead_emitted]
    rfl
  have hparams : (withGeo g s).params = s.params := rfl
  simp only [eraseAndWait, hframe, hparams, waitReady_withGeo]
  split <;> rfl

/-- Steps 3 to 6 of ERASE_SECTOR read no geometry (R216). -/
theorem enableAndErase_withGeo (g : Geometry) (x : Nat) (s : State) :
    enableAndErase x (withGeo g s) = withGeo g (enableAndErase x s) := by
  cases hst : rawLatched s.params ((s.rxAnswer 1).headD 0#8)
  · rw [enableAndErase_unlatched hst]
    exact enableAndErase_unlatched (s := withGeo g s) hst
  · rw [enableAndErase_latched hst, ← eraseAndWait_withGeo]
    exact enableAndErase_latched (s := withGeo g s) hst

/-- Settles O51: no step of ERASE_SECTOR reads the geometry, and its frames leave it. -/
theorem eraseReadsNoGeometry : Obligations.EraseReadsNoGeometry := by
  intro s t x g h
  have hexec : exec (.eraseSector x) (withGeo g s) = .next (withGeo g t) := by
    obtain ⟨hconf, h⟩ := guarded_next h
    have hparams : (withGeo g s).params = s.params := rfl
    simp only [exec, execEraseSector, guarded_of_configured (s := withGeo g s) hconf, hparams, waitReady_withGeo,
      enableAndErase_withGeo]
    split at h
    next hx =>
      cases h
      rw [if_pos hx]
      rfl
    next hx =>
      cases h
      rw [if_neg hx, apply_ite (withGeo g)]
      rfl
  exact hexec

/-- The state with other answers still to come. -/
def withOracle (rx : List Byte) (k : Nat) (s : State) : State :=
  { s with rxIn := rx, rxFree := k }

/-- What a call yields with other answers still to come in its state. -/
def doneWithOracle (rx : List Byte) (k : Nat) (r : WriteDone) : WriteDone :=
  { r with state := withOracle rx k r.state }

/-- Sending events without reading does not depend on the answers. -/
theorem emitted_withOracle (rx : List Byte) (k : Nat) (s : State) (es : List Event) :
    (withOracle rx k s).emitted es 0 = withOracle rx k (s.emitted es 0) := by
  simp [State.emitted, withOracle]

section

variable (rx : List Byte) (k : Nat)

/-- A page write does the same whatever the chip would answer (R170). -/
theorem writePageCall_withOracle {a n : Nat} {d : List Byte} {fq : Bool} {s : State} {r : WriteDone}
    (h : writePageCall a d n fq s = .next r) :
    writePageCall a d n fq (withOracle rx k s) = .next (doneWithOracle rx k r) := by
  have hgeo : (withOracle rx k s).geo = s.geo := rfl
  simp only [writePageCall, State.programPage_emitted, hgeo, emitted_withOracle] at h ⊢
  split_ifs at h ⊢
  · cases h; rfl
  · cases h; rfl
  · cases h; rfl
  · split at h <;> cases h
    rfl

/-- The chunk loop does the same whatever the chip would answer (R192). -/
theorem writeLoop_withOracle {P fuel addr off rem total : Nat} {d : List Byte} {s : State} {r : WriteDone}
    (h : writeLoop P d fuel addr off rem total s = .next r) :
    writeLoop P d fuel addr off rem total (withOracle rx k s) = .next (doneWithOracle rx k r) := by
  induction fuel generalizing addr off rem total s with
  | zero => cases h; rfl
  | succ fuel ih =>
    simp only [writeLoop] at h ⊢
    split
    next hrem =>
      rw [if_pos hrem] at h
      cases h; rfl
    next hrem =>
      rw [if_neg hrem] at h
      split at h
      next c hc =>
        rw [writePageCall_withOracle rx k hc]
        split at h
        next hzero =>
          cases h
          exact if_pos hzero
        next hzero => exact (if_neg hzero).trans (ih h)
      all_goals cases h

theorem writeCall_withOracle {a n : Nat} {d : List Byte} {s : State} {r : WriteDone} (h : writeCall a d n s = .next r) :
    writeCall a d n (withOracle rx k s) = .next (doneWithOracle rx k r) := by
  have hgeo : (withOracle rx k s).geo = s.geo := rfl
  simp only [writeCall, hgeo] at h ⊢
  split_ifs at h ⊢
  · exact writePageCall_withOracle rx k h
  · exact writeLoop_withOracle rx k h

end

/-- SET_WREN and the two writing operations with data do the same whatever the chip would answer. -/
theorem exec_withOracle_of_writes {i : Instr} {s t : State} (rx : List Byte) (k : Nat)
    (hi : (∃ e, i = .setWren e) ∨ (∃ a d n f, i = .writePage a d n f) ∨ (∃ a d n, i = .write a d n))
    (h : exec i s = .next t) : exec i (withOracle rx k s) = .next (withOracle rx k t) := by
  obtain ⟨e, rfl⟩ | ⟨a, d, n, f, rfl⟩ | ⟨a, d, n, rfl⟩ := hi
  · obtain ⟨hconf, h⟩ := guarded_next h
    cases h
    rw [StatusIdentity.exec_setWren_of_configured (s := withOracle rx k s) hconf, State.setWrenFrame_emitted,
      State.setWrenFrame_emitted, emitted_withOracle]
    rfl
  · obtain ⟨hconf, h⟩ := guarded_next h
    split at h
    next hd =>
      obtain ⟨r, hr, rfl⟩ := finishWrite_next h
      rw [WritePage.exec_writePage_of_enoughData (s := withOracle rx k s) hconf (of_decide_eq_true hd),
        writePageCall_withOracle rx k hr]
      rfl
    next => cases h
  · obtain ⟨hconf, h⟩ := guarded_next h
    split at h
    next hd =>
      obtain ⟨r, hr, rfl⟩ := finishWrite_next h
      rw [PartialWrite.exec_write_of_enoughData (s := withOracle rx k s) hconf (of_decide_eq_true hd),
        writeCall_withOracle rx k hr]
      rfl
    next => cases h

/-- The same operations use none of the answers. -/
theorem exec_keeps_oracle_of_writes {i : Instr} {s t : State}
    (hi : (∃ e, i = .setWren e) ∨ (∃ a d n f, i = .writePage a d n f) ∨ (∃ a d n, i = .write a d n))
    (h : exec i s = .next t) : t.rxIn = s.rxIn ∧ t.rxFree = s.rxFree := by
  have hself := exec_withOracle_of_writes s.rxIn s.rxFree hi h
  have hsame : withOracle s.rxIn s.rxFree s = s := rfl
  rw [hsame, h] at hself
  obtain ht : t = withOracle s.rxIn s.rxFree t := Host.Outcome.next.inj hself
  rw [ht]
  exact ⟨rfl, rfl⟩

/-- Settles O43: the run with the state's own answers shows that none is used. -/
theorem writesNeverReadTheChip : Obligations.WritesNeverReadTheChip := by
  intro i s t rx k hi h
  obtain ⟨hin, hfree⟩ := exec_keeps_oracle_of_writes hi h
  exact ⟨hin, hfree, exec_withOracle_of_writes rx k hi h⟩

/-- READ_ID ends exactly when at least the three bytes it keeps are read, whatever they are (R110). -/
theorem idReadLen_of_exec_readId {s t : State} (h : exec .readId s = .next t) : 3 ≤ s.params.idReadLen := by
  obtain ⟨-, h⟩ := guarded_next h
  rw [State.sendRead_emitted] at h
  simp only at h
  split at h
  next b0 b1 b2 rest hrx =>
    rw [← s.rxAnswer_length s.params.idReadLen, hrx]
    exact Nat.le_add_left 3 rest.length
  next => cases h

/-- Settles O59: where an operation branches on an answer, as the waits of ERASE_SECTOR do, every branch ends; READ_ID
asks for the number of bytes alone. -/
theorem nextStepExistsForEveryAnswer : Obligations.NextStepExistsForEveryAnswer := by
  intro i s t rx k h
  change ∃ t', exec i (withOracle rx k s) = .next t'
  cases i with
  | config c slots =>
    simp only [exec, execConfig]
    split
    · exact ⟨_, rfl⟩
    · split
      · exact ⟨_, rfl⟩
      · exact ⟨_, rfl⟩
  | setWren e => exact ⟨_, exec_withOracle_of_writes rx k (.inl ⟨e, rfl⟩) h⟩
  | writePage a d n f => exact ⟨_, exec_withOracle_of_writes rx k (.inr (.inl ⟨a, d, n, f, rfl⟩)) h⟩
  | write a d n => exact ⟨_, exec_withOracle_of_writes rx k (.inr (.inr ⟨a, d, n, rfl⟩)) h⟩
  | readStatus | writeEnable | writeDisable | readStatus1 | sectorErase4kb | jedecId =>
    obtain ⟨hconf, -⟩ := guarded_next h
    exact ⟨_, guarded_of_configured (s := withOracle rx k s) hconf _⟩
  | readId =>
    obtain ⟨hconf, -⟩ := guarded_next h
    obtain ⟨b0, b1, b2, rest, hrx⟩ :=
      StatusIdentity.exists_rxAnswer_first_three (idReadLen_of_exec_readId h) (withOracle rx k s)
    exact ⟨_, StatusIdentity.exec_readId_of_rxAnswer (s := withOracle rx k s) hconf hrx⟩
  | read a n =>
    obtain ⟨hconf, h⟩ := guarded_next h
    split at h
    next ha => exact ⟨_, ReadClamp.exec_read_beyond (s := withOracle rx k s) hconf ha n⟩
    next ha =>
      split at h
      next => cases h
      next ab hab =>
        exact ⟨_, ReadClamp.exec_read_inside (s := withOracle rx k s) hconf (Nat.lt_of_not_le ha) hab rfl⟩
  | eraseSector x =>
    obtain ⟨hconf, -⟩ := guarded_next h
    exact exists_exec_eraseSector (s := withOracle rx k s) hconf x
  | pageProgram a d =>
    obtain ⟨hconf, h⟩ := guarded_next h
    split at h
    next => cases h
    next ab hab =>
      exact ⟨_, WireFrames.exec_wire (s := withOracle rx k s) hconf (DecodeEncode.encode_pageProgram hab d)⟩
  | dataRead a n =>
    obtain ⟨hconf, h⟩ := guarded_next h
    split at h
    next => cases h
    next ab hab => exact ⟨_, WireFrames.exec_wire (s := withOracle rx k s) hconf (DecodeEncode.encode_dataRead hab n)⟩

end Sys2Proof.Proofs.NonInterference

/-! The chunks of a range: one for each page it touches (R187). -/

namespace Sys2Proof.Proofs.Chunks

open Sys2Proof.Machine Sys2Proof.Safety

/-- An empty range has no chunk. -/
theorem chunks_zero (P a : Nat) : chunks P a 0 = [] := rfl

/-- The page of an address begins at or before it and ends after it (R51). -/
theorem page_bounds {P : Nat} (hP : 0 < P) (a : Nat) : a / P * P ≤ a ∧ a + pageRoom P a = (a / P + 1) * P := by
  have hdiv : a / P * P + a % P = a := Nat.div_add_mod' a P
  have hmod : a % P < P := Nat.mod_lt a hP
  rw [Nat.add_one_mul]
  simp only [pageRoom, pageOffset]
  omega

/-- The first chunk begins at the range's start. -/
theorem chunkIn_first {P : Nat} (hP : 0 < P) (a n : Nat) : chunkIn P a n (a / P) = (a, min (pageRoom P a) n) := by
  obtain ⟨hbegin, hend⟩ := page_bounds hP a
  simp only [chunkIn, ← hend, max_eq_left hbegin, Prod.mk.injEq, true_and]
  omega

/-- The chunks of the pages behind the first are those of the range that begins at the second page. -/
theorem chunkIn_later {P a n k : Nat} (hP : 0 < P) (hk : pageRoom P a = k) (hn : k ≤ n) (j : Nat) :
    chunkIn P a n (a / P + 1 + j) = chunkIn P (a + k) (n - k) (a / P + 1 + j) := by
  obtain ⟨-, hend⟩ := page_bounds hP a
  have hpage : (a / P + 1) * P ≤ (a / P + 1 + j) * P := Nat.mul_le_mul_right P (Nat.le_add_right _ j)
  have hfirst : max a ((a / P + 1 + j) * P) = max (a + k) ((a / P + 1 + j) * P) := by omega
  have hlast : a + n = a + k + (n - k) := by omega
  rw [chunkIn, chunkIn, hfirst, hlast]

/-- A range is its first page's chunk, and then the range behind it (R186, R187). -/
theorem chunks_cons {P a n k : Nat} (hP : 0 < P) (hn : 0 < n) (hk : min (pageRoom P a) n = k) :
    chunks P a n = (a, k) :: chunks P (a + k) (n - k) := by
  obtain ⟨-, hend⟩ := page_bounds hP a
  by_cases hone : n ≤ pageRoom P a
  · have hlast : (a + n - 1) / P = a / P := by
      refine Nat.div_eq_of_lt_le (Nat.le_trans (page_bounds hP a).1 (by omega)) (by omega)
    obtain rfl : k = n := by omega
    rw [Nat.sub_self, chunks_zero, chunks, pagesTouched, if_neg hn.ne', hlast, Nat.sub_self]
    simp [chunkIn_first hP, min_eq_right hone]
  · have hroom : pageRoom P a = k := by omega
    rw [hroom] at hend
    have hfirst : (a + k) / P = a / P + 1 := by rw [hend, Nat.mul_div_cancel _ hP]
    have hlast : a / P + 1 ≤ (a + n - 1) / P := by
      rw [← hfirst]
      exact Nat.div_le_div_right (by omega)
    have hsame : a + k + (n - k) - 1 = a + n - 1 := by omega
    have hrest : n - k ≠ 0 := by omega
    have hpages : pagesTouched P a n = pagesTouched P (a + k) (n - k) + 1 := by
      rw [pagesTouched, pagesTouched, if_neg hn.ne', if_neg hrest, hfirst, hsame]
      omega
    rw [chunks, hpages, List.range_succ_eq_map, List.map_cons, Nat.add_zero, chunkIn_first hP, hk, List.map_map,
      chunks, hfirst]
    congr 2
    funext j
    simp only [Function.comp_apply, Nat.succ_eq_add_one, Nat.add_comm j 1, ← Nat.add_assoc]
    exact chunkIn_later hP hroom (by omega) j

/-- Chunks that tile a range: each is not empty, stays in the page of its first address, and begins where the one before
it ended. -/
inductive Tiles (P : Nat) : Nat → Nat → List (Nat × Nat) → Prop
  | nil (a : Nat) : Tiles P a 0 []
  | cons {a k n : Nat} {cs : List (Nat × Nat)} (pos : 0 < k) (inPage : a % P + k ≤ P) (rest : Tiles P (a + k) n cs) :
      Tiles P a (k + n) ((a, k) :: cs)

/-- The chunks of a range tile it. -/
theorem chunks_tiles {P : Nat} (hP : 0 < P) (a n : Nat) : Tiles P a n (chunks P a n) := by
  induction n using Nat.strongRecOn generalizing a with
  | ind n ih =>
    rcases Nat.eq_zero_or_pos n with rfl | hn
    · exact .nil a
    · generalize hk : min (pageRoom P a) n = k
      have hroom : 0 < pageRoom P a := PartialWrite.pageRoom_pos hP.ne' a
      have hmod : a % P < P := Nat.mod_lt a hP
      have hpage : a % P + k ≤ P := by
        simp only [pageRoom, pageOffset] at hk
        omega
      have hpos : 0 < k := by omega
      have hle : k ≤ n := by omega
      have htiles := Tiles.cons hpos hpage (ih (n - k) (by omega) (a + k))
      rwa [Nat.add_sub_cancel' hle, ← chunks_cons hP hn hk] at htiles

namespace Tiles

variable {P a n : Nat} {cs : List (Nat × Nat)}

theorem sum_lengths (h : Tiles P a n cs) : (cs.map Prod.snd).sum = n := by
  induction h with
  | nil => rfl
  | cons _ _ _ ih => rw [List.map_cons, List.sum_cons, ih]

theorem inPage (h : Tiles P a n cs) : ∀ c ∈ cs, 0 < c.2 ∧ c.1 % P + c.2 ≤ P := by
  induction h with
  | nil => nofun
  | cons pos inPage _ ih => exact List.forall_mem_cons.2 ⟨⟨pos, inPage⟩, ih⟩

/-- The first chunk of a range that has one begins at its start. -/
theorem head_fst (h : Tiles P a n cs) {c : Nat × Nat} (hc : cs[0]? = some c) : c.1 = a := by
  cases h <;> cases hc
  rfl

theorem contiguous (h : Tiles P a n cs) (j : Nat) {c e : Nat × Nat} (hc : cs[j]? = some c)
    (he : cs[j + 1]? = some e) : e.1 = c.1 + c.2 := by
  induction h generalizing j with
  | nil => cases hc
  | cons _ _ rest ih =>
    cases j with
    | zero =>
      cases hc
      exact rest.head_fst he
    | succ j => exact ih j hc he

end Tiles

/-- Settles O40: the chunks tile the range; their number is that of the pages touched. -/
theorem chunksTileTheRange : Obligations.ChunksTileTheRange := by
  intro P a n hP hn
  have htiles := chunks_tiles hP a n
  refine ⟨?_, htiles.inPage, htiles.sum_lengths, ?_, fun j c e hc he => htiles.contiguous j hc he⟩
  · rw [chunks, List.length_map, List.length_range, pagesTouched, if_neg hn.ne']
  · rw [chunks_cons hP hn rfl]
    rfl

end Sys2Proof.Proofs.Chunks

/-! WRITE_PAGE and WRITE: what they refuse, the page they program, and the split of a range over its pages
(R53, R171 to R175, R186 to R190). -/

namespace Sys2Proof.Proofs.WriteSplit

open Sys2Proof.Machine Sys2Proof.Safety Sys2Proof.Proofs.WritePage Sys2Proof.Proofs.PartialWrite
  Sys2Proof.Proofs.Chunks

/-- Settles O36: the data check comes before those of the call. -/
theorem shortWriteDataRefused : Obligations.ShortWriteDataRefused := by
  intro s a n d fq hconf hd
  have hshort : enoughData d n = false := decide_eq_false (Nat.not_le.2 hd)
  simp [exec, execWritePage, execWrite, guarded_of_configured hconf, hshort]

/-- Settles O37: WRITE checks the page size first, WRITE_PAGE when its address and length passed. -/
theorem zeroPageSizeRefused : Obligations.ZeroPageSizeRefused := by
  intro s a n d fq hconf hpage hd
  refine ⟨?_, fun ha hn => ?_⟩
  · rw [exec_write_of_enoughData hconf hd]
    simp [writeCall, hpage, finishWrite]
  · rw [exec_writePage_of_enoughData hconf hd]
    simp [writePageCall, hpage, hn, Nat.not_le.2 ha, finishWrite]

/-- The one-page path of WRITE is the page write (R186). -/
theorem writeCall_onePage {s : State} {a n : Nat} (hP : s.geo.pageSize.toNat ≠ 0)
    (hfit : pageOffset s.geo.pageSize.toNat a + n ≤ s.geo.pageSize.toNat) (d : List Byte) :
    writeCall a d n s = writePageCall a d n false s := by
  simp only [writeCall, if_neg hP, if_pos hfit]

/-- Settles O38: both operations have the same guards, and past them the same call. -/
theorem onePageWriteIsWritePage : Obligations.OnePageWriteIsWritePage := by
  intro s a n d hpage hfit
  have hP : s.geo.pageSize.toNat ≠ 0 := mt (BitVec.toNat_inj (y := 0)).1 hpage
  simp only [exec, execWrite, execWritePage, writeCall_onePage hP hfit]

/-- A page write that passes its checks is refused where its address has no framing (R22). -/
theorem writePageCall_unframed {a n : Nat} {s : State} (hw : ∀ x, addressBytes s.geo.addressWidth x = none)
    (ha : a < s.geo.totalSize.toNat) (hP : s.geo.pageSize.toNat ≠ 0)
    (hfit : pageOffset s.geo.pageSize.toNat a + n ≤ s.geo.pageSize.toNat) (d : List Byte) (fq : Bool) :
    writePageCall a d n fq s = .refused .addressWidth := by
  have hlen : ¬ s.geo.pageSize.toNat < n := by omega
  simp only [writePageCall, if_neg (Nat.not_le.2 ha), if_neg hlen, if_neg hP, if_neg (Nat.not_lt.2 hfit), hw]

/-- The first chunk of a range lies in its page (R187). -/
theorem pageOffset_add_min_le {P : Nat} (hP : P ≠ 0) (a n : Nat) : pageOffset P a + min (pageRoom P a) n ≤ P := by
  have hmod : a % P < P := Nat.mod_lt a (Nat.pos_of_ne_zero hP)
  simp only [pageRoom, pageOffset]
  omega

/-- WRITE is refused at its first chunk where an address has no framing (R22). -/
theorem writeCall_unframed {a n : Nat} {s : State} (hw : ∀ x, addressBytes s.geo.addressWidth x = none)
    (ha : a < s.geo.totalSize.toNat) (hP : s.geo.pageSize.toNat ≠ 0) (d : List Byte) :
    writeCall a d n s = .refused .addressWidth := by
  by_cases hfit : pageOffset s.geo.pageSize.toNat a + n ≤ s.geo.pageSize.toNat
  · rw [writeCall_onePage hP hfit, writePageCall_unframed hw ha hP hfit]
  · simp only [writeCall, if_neg hP, if_neg hfit]
    cases n with
    | zero => exact absurd (Nat.mod_lt a (Nat.pos_of_ne_zero hP)).le hfit
    | succ n =>
      simp only [writeLoop, if_neg (Nat.succ_ne_zero n),
        writePageCall_unframed hw ha hP (pageOffset_add_min_le hP a (n + 1))]

/-- Settles O16: each operation is refused at the place where it frames its address. -/
theorem otherAddressWidthRefused : Obligations.OtherAddressWidthRefused := by
  intro s a n d fq hconf h24 h16
  have hw : ∀ x, addressBytes s.geo.addressWidth x = none := fun _ => (if_neg h24).trans (if_neg h16)
  refine ⟨?_, ?_, fun ha => ⟨?_, fun hpage hd => ?_⟩⟩
  · simp only [exec, execPageProgram, guarded_of_configured hconf, hw]
  · simp only [exec, execDataRead, guarded_of_configured hconf, hw]
  · simp only [exec, execRead, guarded_of_configured hconf, if_neg (Nat.not_le.2 ha), hw]
  · have hP : s.geo.pageSize.toNat ≠ 0 := mt (BitVec.toNat_inj (y := 0)).1 hpage
    refine ⟨?_, fun hfit => ?_⟩
    · rw [exec_write_of_enoughData hconf hd, writeCall_unframed hw ha hP]
      rfl
    · rw [exec_writePage_of_enoughData hconf hd, writePageCall_unframed hw ha hP hfit]
      rfl

/-- A framed address ends in its low byte, at both widths (R104). -/
theorem addressBytes_eq_append {w : Word} (h : legalWidth w = true) (a : Nat) :
    ∃ upper, addressBytes w a = some (upper ++ [addressByte 0 a]) ∧ upper.length + 1 = w.toNat / 8 := by
  simp only [legalWidth, Bool.or_eq_true, beq_iff_eq] at h
  obtain rfl | rfl := h
  · exact ⟨[addressByte 2 a, addressByte 1 a], rfl, by simp⟩
  · exact ⟨[addressByte 1 a], rfl, by simp⟩

/-- The framed address of a full page has the low byte 0 (R106, R175). -/
theorem addressByte_framedAddress_fullPage (P a : Nat) : addressByte 0 (framedAddress P a P) = 0 := by
  have hlow : (a - a % 256) / 2 ^ (8 * 0) % 256 = 0 := by omega
  apply BitVec.eq_of_toNat_eq
  rw [DecodeEncode.addressByte_toNat, framedAddress, if_pos rfl, hlow]
  rfl

/-- Settles O34: a full page is accepted where its address begins a page, and its framed address ends in 0. -/
theorem fullPageLowAddressByteIsZero : Obligations.FullPageLowAddressByteIsZero := by
  intro s a d fq hconf hw hd ha hpage hbegin
  have hP : s.geo.pageSize.toNat ≠ 0 := mt (BitVec.toNat_inj (y := 0)).1 hpage
  have hfit : pageOffset s.geo.pageSize.toNat a.toNat + s.geo.pageSize.toNat ≤ s.geo.pageSize.toNat := by
    rw [pageOffset, hbegin, Nat.zero_add]
  obtain ⟨upper, hab, hlen⟩ :=
    addressBytes_eq_append hw (framedAddress s.geo.pageSize.toNat a.toNat s.geo.pageSize.toNat)
  rw [addressByte_framedAddress_fullPage] at hab
  have hexec := exec_writePage_of_enoughData hconf hd a fq
  rw [writePageCall_accept d fq ha hP hfit hab] at hexec
  exact ⟨upper, _, hexec, hlen, rfl⟩

/-- Settles O35: a page write without failure was accepted, so it lies in the page of an address inside the device. -/
theorem acceptedPageWriteInsideDevice : Obligations.AcceptedPageWriteInsideDevice := by
  intro s t a n d fq htotal h hcause
  obtain ⟨-, h⟩ := guarded_next h
  split at h
  · obtain ⟨r, hr, rfl⟩ := finishWrite_next h
    rcases writePageCall_next hr with rfl | ⟨ab, ha, -, hfit, -, rfl⟩
    · cases hcause
    · have hpage := add_pageRoom_le (Dvd.intro_left _ htotal.symm) ha
      simp only [pageRoom] at hpage
      omega
  · cases h

/-- Settles O32: framing three bytes drops what lies above bit 23, and neither read is clamped. -/
theorem upperHalfReadAliasesLower : Obligations.UpperHalfReadAliasesLower := by
  intro s a n hconf hw hupper hend ha
  have hlow : (a - 0x1000000).toNat = a.toNat - 2 ^ 24 := by bv_omega
  have hbytes : addressBytes24 (a.toNat - 2 ^ 24) = addressBytes24 a.toNat := by
    simp only [addressBytes24, List.cons.injEq, and_true]
    refine ⟨?_, ?_, ?_⟩ <;> apply BitVec.eq_of_toNat_eq <;> simp only [DecodeEncode.addressByte_toNat] <;> omega
  have hframe : ∀ x, addressBytes s.geo.addressWidth x = some (addressBytes24 x) := fun _ => if_pos hw
  have hclamp : clampedLength s.geo.totalSize.toNat a.toNat n.toNat = n.toNat := by
    rw [clampedLength]
    omega
  have hclamp' : clampedLength s.geo.totalSize.toNat (a - 0x1000000).toNat n.toNat = n.toNat := by
    rw [clampedLength, hlow]
    omega
  have hab' : addressBytes s.geo.addressWidth (a - 0x1000000).toNat = some (addressBytes24 a.toNat) := by
    rw [hframe, hlow, hbytes]
  exact ⟨_, ReadClamp.exec_read_inside hconf ha (hframe _) hclamp,
    ReadClamp.exec_read_inside hconf (by omega) hab' hclamp'⟩

/-- The events of one chunk of a WRITE at `start` (R186, R189), as `splitEvents` has them. -/
def chunkEvents (p : Params) (w : Word) (P start : Nat) (d : List Byte) (c : Nat × Nat) : List Event :=
  programEvents p ((addressBytes w (framedAddress P c.1 c.2)).getD []) ((d.drop (c.1 - start)).take c.2) false

theorem splitEvents_eq_flatMap (p : Params) (w : Word) (P start : Nat) (d : List Byte) (m : Nat) :
    splitEvents p w P start d m = (chunks P start m).flatMap (chunkEvents p w P start d) := rfl

/-- A pass of the chunk loop inside the device writes one chunk and goes on behind it (R186). -/
theorem writeLoop_succ_chunk {s : State} {start off rem k : Nat} {d : List Byte}
    (hw : legalWidth s.geo.addressWidth = true) (hP : s.geo.pageSize.toNat ≠ 0) (hrem : rem ≠ 0)
    (ha : start + off < s.geo.totalSize.toNat) (hk : min (pageRoom s.geo.pageSize.toNat (start + off)) rem = k)
    (fuel total : Nat) :
    writeLoop s.geo.pageSize.toNat d (fuel + 1) (start + off) off rem total s =
      writeLoop s.geo.pageSize.toNat d fuel (start + (off + k)) (off + k) (rem - k) (total + k)
        (s.emitted (chunkEvents s.params s.geo.addressWidth s.geo.pageSize.toNat start d (start + off, k)) 0) := by
  have hfit := hk ▸ pageOffset_add_min_le hP (start + off) rem
  have hroom := pageRoom_pos hP (start + off)
  have hpos : k ≠ 0 := by omega
  obtain ⟨ab, hab⟩ :=
    ReadClamp.exists_addressBytes_of_legalWidth hw (framedAddress s.geo.pageSize.toNat (start + off) k)
  simp only [writeLoop, if_neg hrem, hk, writePageCall_accept _ _ ha hP hfit hab, if_neg hpos, List.take_take,
    Nat.min_self, chunkEvents, hab, Option.getD_some, Nat.add_sub_cancel_left, Nat.add_assoc]

/-- The outcome of writing a range of which `rem` bytes are left at `start + off`, after `total` bytes: the chunks
inside the device are written and counted, and a range that runs past it is a Range error (R186, R188). -/
def splitDone (s : State) (d : List Byte) (start off rem total : Nat) : WriteDone :=
  let m := min rem (s.geo.totalSize.toNat - (start + off))
  { count := total + m
    cause := if m = rem then none else some .range
    state := s.emitted ((chunks s.geo.pageSize.toNat (start + off) m).flatMap
      (chunkEvents s.params s.geo.addressWidth s.geo.pageSize.toNat start d)) 0 }

/-- Nothing left to write is done. -/
theorem splitDone_zero (s : State) (d : List Byte) (start off total : Nat) :
    splitDone s d start off 0 total = ⟨total, none, s⟩ := by
  simp [splitDone, chunks_zero]

/-- Beyond the device nothing is written. -/
theorem splitDone_beyond {s : State} {start off rem : Nat} (ha : s.geo.totalSize.toNat ≤ start + off)
    (hrem : rem ≠ 0) (d : List Byte) (total : Nat) :
    splitDone s d start off rem total = ⟨total, some .range, s⟩ := by
  simp [splitDone, Nat.sub_eq_zero_of_le ha, chunks_zero, hrem.symm]

/-- A chunk inside the device, and what is done behind it. -/
theorem splitDone_chunk {s : State} {start off rem k : Nat} {d : List Byte} (hP : s.geo.pageSize.toNat ≠ 0)
    (hwhole : s.geo.pageSize.toNat ∣ s.geo.totalSize.toNat) (hrem : rem ≠ 0)
    (ha : start + off < s.geo.totalSize.toNat) (hk : min (pageRoom s.geo.pageSize.toNat (start + off)) rem = k)
    (total : Nat) :
    splitDone s d start off rem total =
      splitDone (s.emitted (chunkEvents s.params s.geo.addressWidth s.geo.pageSize.toNat start d (start + off, k)) 0)
        d start (off + k) (rem - k) (total + k) := by
  have hend := add_pageRoom_le hwhole ha
  generalize hm : min rem (s.geo.totalSize.toNat - (start + off)) = m
  have hm' : min (rem - k) (s.geo.totalSize.toNat - (start + (off + k))) = m - k := by omega
  have hk' : min (pageRoom s.geo.pageSize.toNat (start + off)) m = k := by omega
  have hcause : m - k = rem - k ↔ m = rem := by omega
  have hcount : total + k + (m - k) = total + m := by omega
  have hpos : 0 < m := by omega
  simp only [splitDone, State.emitted_geo, State.emitted_params, hm, hm', hcause, hcount, State.emitted_emitted,
    chunks_cons (Nat.pos_of_ne_zero hP) hpos hk', List.flatMap_cons, Nat.add_assoc]

section

variable {s : State} (hw : legalWidth s.geo.addressWidth = true) (hP : s.geo.pageSize.toNat ≠ 0)
  (hwhole : s.geo.pageSize.toNat ∣ s.geo.totalSize.toNat)
include hw hP hwhole

/-- The chunk loop writes the chunks of its range that lie inside the device (R186 to R190). -/
theorem writeLoop_eq_splitDone {fuel rem : Nat} (hfuel : rem ≤ fuel) (d : List Byte) (start off total : Nat) :
    writeLoop s.geo.pageSize.toNat d fuel (start + off) off rem total s =
      .next (splitDone s d start off rem total) := by
  induction fuel generalizing s off rem total with
  | zero =>
    obtain rfl := Nat.le_zero.1 hfuel
    rw [splitDone_zero]
    rfl
  | succ fuel ih =>
    rcases eq_or_ne rem 0 with rfl | hrem
    · rw [splitDone_zero]
      rfl
    by_cases ha : s.geo.totalSize.toNat ≤ start + off
    · rw [splitDone_beyond ha hrem, writeLoop_succ_beyond ha hrem]
    · have hlt : start + off < s.geo.totalSize.toNat := Nat.lt_of_not_le ha
      have hroom := pageRoom_pos hP (start + off)
      rw [splitDone_chunk hP hwhole hrem hlt rfl, writeLoop_succ_chunk hw hP hrem hlt rfl]
      exact ih (s := s.emitted _ 0) hw hP hwhole (by omega) _ _

/-- WRITE of at least one byte, on its one-page path too, writes the chunks of its range that lie inside the device. -/
theorem writeCall_eq_splitDone {n : Nat} (hn : n ≠ 0) (a : Nat) (d : List Byte) :
    writeCall a d n s = .next (splitDone s d a 0 n 0) := by
  by_cases hfit : pageOffset s.geo.pageSize.toNat a + n ≤ s.geo.pageSize.toNat
  · rw [writeCall_onePage hP hfit]
    by_cases ha : s.geo.totalSize.toNat ≤ a
    · rw [writePageCall_beyond d n false ha, splitDone_beyond (off := 0) ha hn]
    · have hlt : a < s.geo.totalSize.toNat := Nat.lt_of_not_le ha
      have hk : min (pageRoom s.geo.pageSize.toNat a) n = n := by
        simp only [pageRoom]
        omega
      obtain ⟨ab, hab⟩ := ReadClamp.exists_addressBytes_of_legalWidth hw (framedAddress s.geo.pageSize.toNat a n)
      rw [writePageCall_accept d false hlt hP hfit hab, splitDone_chunk (off := 0) hP hwhole hn hlt hk, Nat.sub_self,
        splitDone_zero]
      simp [chunkEvents, hab]
  · simp only [writeCall, if_neg hP, if_neg hfit]
    exact writeLoop_eq_splitDone hw hP hwhole le_rfl d a 0 0

end

/-- Settles O39: the call does what `splitDone` says, and the response carries its count and cause. -/
theorem writeSplitsAtPageBoundaries : Obligations.WriteSplitsAtPageBoundaries := by
  intro s a n d hconf hcs hw hpage htotal hn hd
  have hP : s.geo.pageSize.toNat ≠ 0 := mt (BitVec.toNat_inj (y := 0)).1 hpage
  rw [exec_write_of_enoughData hconf hd,
    writeCall_eq_splitDone hw hP (Dvd.intro_left _ htotal.symm) (Nat.ne_of_gt hn)]
  simp only [finishWrite, splitDone, EraseOutcome.emitted_of_cs hcs, splitEvents_eq_flatMap, Nat.add_zero, Nat.zero_add]
  simp [State.respond]

/-- From `s` to `t` whole frames were sent whose program data are `bytes`, in order, and nothing was read (R56,
R190). -/
def SendsBytes (s t : State) (bytes : List Byte) : Prop :=
  ∃ es, t = s.emitted es 0 ∧ Disciplined s.params es ∧ programmed s.params s.geo.addressWidth es = bytes

theorem sendsBytes_nil (s : State) : SendsBytes s s [] :=
  ⟨[], by simp, disciplined_nil _, rfl⟩

theorem SendsBytes.params {s t : State} {xs : List Byte} (h : SendsBytes s t xs) : t.params = s.params := by
  obtain ⟨es, rfl, -⟩ := h
  rfl

theorem SendsBytes.trans {s t u : State} {xs ys : List Byte} (h : SendsBytes s t xs) (h' : SendsBytes t u ys) :
    SendsBytes s u (xs ++ ys) := by
  obtain ⟨es, rfl, hdisc, rfl⟩ := h
  obtain ⟨es', rfl, hdisc', rfl⟩ := h'
  refine ⟨es ++ es', State.emitted_emitted _ _ _ _ _, hdisc.append hdisc', ?_⟩
  rw [programmed, WriteGuards.items_append hdisc, List.flatMap_append]
  rfl

/-- An accepted page write sends its data (R171). -/
theorem sendsBytes_program {s : State} {ab : List Byte} (hcmd : s.params.cmdWriteEnable ≠ s.params.cmdPageProgram)
    (hab : ab.length = s.geo.addressWidth.toNat / 8) (data : List Byte) (fq : Bool) :
    SendsBytes s (s.emitted (programEvents s.params ab data fq) 0) data := by
  have hnone : programmed s.params s.geo.addressWidth [] = [] := rfl
  have hprogrammed := programmed_programEvents_append hcmd hab data fq []
  rw [hnone, List.append_nil, List.append_nil] at hprogrammed
  exact ⟨_, rfl, disciplined_program _ _ _ _, hprogrammed⟩

/-- A page write that ends sends as much of its data as it counts: all of it or nothing (R171). -/
theorem writePageCall_sends {s : State} (hcmd : s.params.cmdWriteEnable ≠ s.params.cmdPageProgram) {a n : Nat}
    {d : List Byte} {fq : Bool} {r : WriteDone} (h : writePageCall a d n fq s = .next r) :
    r.count ≤ n ∧ SendsBytes s r.state (d.take r.count) := by
  rcases writePageCall_next h with rfl | ⟨ab, -, -, -, hab, rfl⟩
  · exact ⟨Nat.zero_le n, sendsBytes_nil s⟩
  · exact ⟨le_rfl, sendsBytes_program hcmd (length_of_addressBytes hab) _ fq⟩

/-- The chunk loop sends as much of the data from `off` on as it adds to its count (R190). -/
theorem writeLoop_sends {s : State} (hcmd : s.params.cmdWriteEnable ≠ s.params.cmdPageProgram)
    {P fuel addr off rem total : Nat} {d : List Byte} {r : WriteDone}
    (h : writeLoop P d fuel addr off rem total s = .next r) :
    ∃ k, k ≤ rem ∧ r.count = total + k ∧ SendsBytes s r.state ((d.drop off).take k) := by
  induction fuel generalizing addr off rem total s with
  | zero =>
    cases h
    exact ⟨0, Nat.zero_le _, rfl, sendsBytes_nil s⟩
  | succ fuel ih =>
    simp only [writeLoop] at h
    split at h
    · cases h
      exact ⟨0, Nat.zero_le _, rfl, sendsBytes_nil s⟩
    · split at h
      next c hc =>
        obtain ⟨hle, hchunk⟩ := writePageCall_sends hcmd hc
        rw [List.take_take, Nat.min_eq_left hle] at hchunk
        split at h
        next hzero =>
          cases h
          rw [hzero] at hchunk
          exact ⟨0, Nat.zero_le _, rfl, hchunk⟩
        next =>
          obtain ⟨k, hk, hcount, hrest⟩ := ih (by rwa [hchunk.params]) h
          refine ⟨c.count + k, by omega, by omega, ?_⟩
          rw [List.take_add, List.drop_drop]
          exact hchunk.trans hrest
      all_goals cases h

/-- WRITE's call sends the bytes it counts (R190). -/
theorem writeCall_sends {s : State} (hcmd : s.params.cmdWriteEnable ≠ s.params.cmdPageProgram) {a n : Nat}
    {d : List Byte} {r : WriteDone} (h : writeCall a d n s = .next r) :
    r.count ≤ n ∧ SendsBytes s r.state (d.take r.count) := by
  simp only [writeCall] at h
  split at h
  · cases h
  · split at h
    · exact writePageCall_sends hcmd h
    · obtain ⟨k, hk, hcount, hsent⟩ := writeLoop_sends hcmd h
      rw [Nat.zero_add] at hcount
      exact ⟨hcount ▸ hk, hcount ▸ hsent⟩

/-- Settles O41: the response carries the call's count, which is at most `length` and so is not truncated. -/
theorem writeSendsReportedBytesInOrder : Obligations.WriteSendsReportedBytesInOrder := by
  intro s t a n d hnodup h
  simp only [Params.commands, List.nodup_cons, List.mem_cons, not_or] at hnodup
  obtain ⟨⟨-, -, hcmd, -⟩, -⟩ := hnodup
  obtain ⟨-, h⟩ := guarded_next h
  split at h
  · obtain ⟨r, hr, rfl⟩ := finishWrite_next h
    obtain ⟨hle, es, hstate, -, hdata⟩ := writeCall_sends hcmd hr
    have hret : (BitVec.ofNat 32 r.count).toNat = r.count := Nat.mod_eq_of_lt (hle.trans_lt n.isLt)
    exact ⟨_, es, rfl, congrArg State.trace hstate, hret.trans_le hle, by rw [hdata, hret]⟩
  · cases h

end Sys2Proof.Proofs.WriteSplit

/-! CONFIG after CONFIG (R135, R137). -/

namespace Sys2Proof.Proofs.SecondConfig

open Sys2Proof.Machine

/-- A successful CONFIG and its response write everything that any CONFIG before it wrote (R135). -/
theorem configure_respond_of_execConfig {c : Word} {slots : BitVec 6} {s t : State} (h : execConfig c slots s = .next t)
    (cp : Capacity) (ret : Word) (d : List Byte) (cause : Option Failure) :
    (t.configure cp).respond ret d cause = (s.configure cp).respond ret d cause := by
  rcases execConfig_next h with rfl | ⟨cp', -, -, rfl⟩
  · rfl
  · rfl

/-- Settles O19: the second CONFIG succeeds from either state, and ends in the same one. -/
theorem secondConfigReplacesFirst : Obligations.SecondConfigReplacesFirst := by
  intro s t c d slots h hd
  obtain ⟨cp, hcp⟩ := ConfigOutcome.exists_capacityOf_of_lt hd
  have hsecond := ConfigGeometry.exec_config_of_capacityOf hcp
  exact (hsecond t).trans ((congrArg _ (configure_respond_of_execConfig h cp _ _ _)).trans (hsecond s).symm)

end Sys2Proof.Proofs.SecondConfig
